-- ==== Sys2Proof/Word.lean ====
section
/-! DEFINITION. The words of the TM1637 protocol engine: bytes (R50), the 85-bit command word (R80),
line levels (R8) and the four bytes of a display buffer (R21). -/

namespace Sys2Proof

/-- One cell of every address space of R50: 8 bits. -/
abbrev Byte := BitVec 8

/-- The command word of R80: `op` 84:81, `colon` 80, `arg` 79:72, `len` 71:64, `a` 63:48, `b` 47:32, `data` 31:0. -/
abbrev CommandWord := BitVec 85

/-- A line level of R8: LOW is logic 0, HIGH is logic 1. -/
inductive Level
  | low
  | high
deriving DecidableEq, Repr, Inhabited

/-- `NDIGITS` = 4 bytes in index order, index 0 the leftmost digit (R21, R55). -/
structure Quad where
  b0 : Byte
  b1 : Byte
  b2 : Byte
  b3 : Byte
deriving DecidableEq, Repr

/-- The bytes in ascending index, the order in which a frame carries them (R52). -/
def Quad.toList (q : Quad) : List Byte := [q.b0, q.b1, q.b2, q.b3]

/-- Element `i` of the command word's `data` field is at bits `8i+7:8i` (R24, R80). -/
def Quad.ofBits (d : BitVec 32) : Quad :=
  { b0 := d.extractLsb' 0 8, b1 := d.extractLsb' 8 8, b2 := d.extractLsb' 16 8, b3 := d.extractLsb' 24 8 }

/-- The `data` field that carries the four bytes, element 0 in the low byte (R80). -/
def Quad.toBits (q : Quad) : BitVec 32 :=
  (q.b3.setWidth 32 <<< 24) ||| (q.b2.setWidth 32 <<< 16) ||| (q.b1.setWidth 32 <<< 8) ||| q.b0.setWidth 32

end Sys2Proof
end

