-- ==== Sys2Proof/Config.lean ====
section
/-! DEFINITION. The parameters of R5 (00_scope.md): the values the spec fixes, the two it leaves OPEN, and the
free values that stand for the environment's draws (R104, R172). -/

namespace Sys2Proof

/-- `BRIGHT_POLICY` of R5: what BRIGHTNESS does with a level above 7. -/
inductive BrightPolicy
  | clamp
  | reject
deriving DecidableEq, Repr

/-- The addressing mode of the data command (R72): the argument of ENC_DATA and the receiver's mode. -/
inductive AddrMode
  | auto
  | fixed
deriving DecidableEq, Repr

namespace Config

/-- `NDIGITS`: "4 for this module" (R5, R6). -/
def nDigits : Nat := 4
/-- `MAX_DIGITS`: "6 in hardware" (R5). -/
def maxDigits : Nat := 6
/-- `ADDR_MAX`: highest display register address (R5). -/
def addrMax : Nat := 5
/-- `BRIGHT_MAX` (R5). -/
def brightMax : Nat := 7
/-- `DATA_CMD_AUTO` (R5, R72). -/
def dataCmdAuto : Byte := 0x40#8
/-- `DATA_CMD_FIXED` (R5, R72). UNVERIFIED: the spec takes it from general knowledge (log entry 11). -/
def dataCmdFixed : Byte := 0x44#8
/-- `ADDR_CMD_BASE` (R5, R73). -/
def addrCmdBase : Byte := 0xC0#8
/-- `CTRL_CMD_BASE` (R5, R74). -/
def ctrlCmdBase : Byte := 0x80#8
/-- `CTRL_ON_BIT` (R5, R74). -/
def ctrlOnBit : Byte := 0x08#8
/-- `SEG_BLANK` (R5). -/
def segBlank : Byte := 0x00#8
/-- `SEG_COLON` (R5, R70). -/
def segColon : Byte := 0x80#8
/-- `RESET_ON`: `ctl.on` after CONSTRUCT (R5). -/
def resetOn : Bool := false
/-- `RESET_BRIGHT`: `ctl.bright` after CONSTRUCT (R5). -/
def resetBright : BitVec 3 := 0#3
/-- `BRIGHT_POLICY` = CLAMP (R5). -/
def brightPolicy : BrightPolicy := .clamp
/-- `PAD_ZERO` = 1: short numbers are padded with the digit '0' (R5). -/
def padZero : Bool := true

/-- What `T_DELAY` exceeds 1 by: OPEN in R5, so nothing constrains it (log entry 5). -/
opaque tDelayExtra : Nat
/-- `T_DELAY`: "OPEN, integer >= 1", ticks a phase is held (R5, R101). -/
def tDelay : Nat := tDelayExtra + 1
/-- `F_CLK`: OPEN, ticks a second (R5). -/
opaque fClk : Nat

/-- The `n`-th level the environment answers an ACK sample with when no level is listed: a draw no rule
constrains (R104, U9). A free value (log entry 4). -/
opaque freeDioIn : Nat → Level
/-- The `n`-th `acq_ok` when none is listed: a draw no rule constrains (R24, R201). A free value (log entry 4). -/
opaque freeAcqOk : Nat → Bool

end Config
end Sys2Proof
end

