-- ==== Sys2Proof/Machine/Encoder.lean ====
section
/-! DEFINITION. The Command Encoder (41_command_encoder.md): pure functions from mode, address, on and brightness to the
three command bytes (R130), as ORs into a base (R75). -/

namespace Sys2Proof.Machine

/-- ENC_DATA (R131). -/
def encData : AddrMode → Byte
  | .auto => Config.dataCmdAuto
  | .fixed => Config.dataCmdFixed

/-- ENC_ADDR (R132): `0xC0 | address` for 0 to 5; 6 and 7 are "not defined; refuse". -/
def encAddr (address : BitVec 3) : Option Byte :=
  if address.toNat ≤ Config.addrMax then some (Config.addrCmdBase ||| address.setWidth 8) else none

/-- ENC_CTRL (R133): `0x80 | (on ? 0x08 : 0) | brightness`. -/
def encCtrl (on : Bool) (brightness : BitVec 3) : Byte :=
  Config.ctrlCmdBase ||| (if on then Config.ctrlOnBit else 0x00#8) ||| brightness.setWidth 8

/-- `ctl.on` is `ctl[3]` (R22). -/
def ctlOn (ctl : BitVec 4) : Bool := ctl.getLsbD 3

/-- `ctl.bright` is `ctl[2:0]` (R22). -/
def ctlBright (ctl : BitVec 4) : BitVec 3 := ctl.extractLsb' 0 3

/-- The packing of the pair, `{on, bright}` (R22). -/
def ctlOf (on : Bool) (bright : BitVec 3) : BitVec 4 := BitVec.ofBool on ++ bright

end Sys2Proof.Machine
end

