-- ==== Sys2Proof/Machine/State.lean ====
section
/-! DEFINITION. The state of the machine: the engine's registers (10_state.md), the wire trace (R60), the reference
receiver with its display registers (R58, R59), and the inputs still to come (R24). Plain data throughout. -/

namespace Sys2Proof.Machine

/-- A line driver of R8 and R23: `z` means the engine does not drive the line. -/
inductive Drive
  | z
  | l
  | h
deriving DecidableEq, Repr

/-- `sess` of R26. -/
inductive Sess
  | uninit
  | idle
  | released
deriving DecidableEq, Repr

/-- `bus` of R26. -/
inductive Bus
  | idle
  | frame
deriving DecidableEq, Repr

/-- `rsp_status` of R29 with the codes of R200. -/
inductive Status
  | ok
  | ackMissing
  | invalidBrightness
  | illegalState
  | illegalOp
  | acquisitionFailure
deriving DecidableEq, Repr

/-- An event of the wire trace (R60): a phase ended with these drivers, or the ACK sample read this level. -/
inductive Event
  | ph (c d : Drive)
  | smp (x : Level)
deriving DecidableEq, Repr

/-- Which piece of an operation a phase belongs to: START, WRITEBYTE, STOP, or the line phases of CONSTRUCT and RELEASE. -/
inductive Part
  | start
  | write
  | stop
  | lines
deriving DecidableEq, Repr

/-- What the end of a phase writes besides the lines and the trace: the assignments that stand after a phase in the
pseudocode of R105, R107 and R110. -/
inductive Effect
  | none
  /-- `bus <- BUS_FRAME` (R105). -/
  | openFrame
  /-- `last_ack <- ack; if not ack: ack_miss <- 1` (R107). -/
  | latchAck
  /-- `bus <- BUS_IDLE` (R110). -/
  | closeFrame
deriving DecidableEq, Repr

/-- A phase of R101 at its place `(f, k, p)` of R27: what it assigns to each line (nothing is the `-` of R9), whether the
ACK sample is taken on its last tick (R104), and what its end writes. -/
structure Phase where
  part : Part
  frame : Nat
  byte : Nat
  index : Nat
  clk : Option Drive
  dio : Option Drive
  sample : Bool
  effect : Effect
deriving DecidableEq, Repr

/-- How an operation ends once its phases are done. -/
inductive Finish
  /-- CONSTRUCT's writes after its phases (R172). -/
  | construct
  /-- RELEASE's write after its phases (R173). -/
  | release
  /-- START and STOP: OK with `rsp_ack` 1 (R105, R110). -/
  | ok
  /-- The response computed from the ACK samples (R107, R183). -/
  | acks
deriving DecidableEq, Repr

/-- `seq` of R27: REST, or the phase in progress, the phases after it and the end of the operation. -/
inductive Seq
  | rest
  | busy (now : Phase) (later : List Phase) (fin : Finish)
deriving DecidableEq, Repr

/-- Where the receiver's reading of the waveform stands (R59): waiting for an idle pair, outside a frame, or inside one
with the data bits of the byte cell in progress (first bit first) and the complete bytes so far. -/
inductive Scan
  | hunting
  | idle
  | inFrame (bits : List Bool) (bytes : List Byte)
deriving DecidableEq, Repr

/-- The display register space of R50 and R55: cells of addresses 0 to 5, sorted by address. An address with no cell is
unknown (R58), so no byte is the value of an unlisted address. -/
abbrev Memory := List Host.Cell

/-- The reference receiver of R58, the environment's side of the wire. -/
structure Receiver where
  /-- The scanner of R59. -/
  scan : Scan
  /-- Frames complete on the wire and not yet executed, oldest first. -/
  inbox : List (List Byte)
  /-- The data bytes of the frame being executed. -/
  args : List Byte
  /-- AUTO, FIXED, or nothing for unknown. -/
  mode : Option AddrMode
  /-- `G[0..5]`. -/
  mem : Memory
  /-- Display on or off, or unknown. -/
  on : Option Bool
  /-- Brightness, or unknown. -/
  bright : Option (BitVec 3)
deriving DecidableEq, Repr

/-- What the environment will answer (R24): the levels of the coming ACK samples and the coming grants. When a list is
empty the answer is a free value of Config, numbered by `drawn` (log entry 4). -/
structure Env where
  dio : List Level
  acq : List Bool
  drawn : Nat
deriving DecidableEq, Repr

/-- What the host does next (R24, R216, R230). -/
inductive HostEvent
  /-- Present a command word; the engine's step is the whole operation (R20). -/
  | command (w : CommandWord)
  /-- Present a command word; the engine's step is one phase (R20). -/
  | commandByPhase (w : CommandWord)
  /-- Present nothing for a step. -/
  | wait
  /-- Hold `rst_n` low for one edge (R230, R231). -/
  | reset
deriving DecidableEq, Repr

/-- The machine: every piece of state of INVENTORY.md's list. -/
structure State where
  /-- Session state (R26). -/
  sess : Sess
  /-- Bus state (R26). -/
  bus : Bus
  /-- Sequencer position (R27). -/
  seq : Seq
  /-- CLOCK driver (R23). -/
  clkDrv : Drive
  /-- DATA driver (R23). -/
  dioDrv : Drive
  /-- DisplayControlState, `{on, bright[2:0]}` (R22). -/
  ctl : BitVec 4
  /-- DisplayBuffer (R21). -/
  buf : Quad
  /-- Result of the most recent ACK sample (R28). -/
  lastAck : Bool
  /-- Sticky: some ACK sample observed no ACK (R28). -/
  ackMiss : Bool
  /-- Response status (R29). -/
  rspStatus : Status
  /-- Response ACK flag (R29). -/
  rspAck : Bool
  /-- The response is given on this step (R25). -/
  rspValid : Bool
  /-- Levels read by the ACK samples of the operation in progress, oldest first (R107, R183; log entry 18). -/
  samples : List Level
  /-- The wire trace since reset (R60). -/
  trace : List Event
  /-- The reference receiver (R58). -/
  rx : Receiver
  /-- The environment's answers to come (R24). -/
  env : Env
  /-- The host's events to come (R24, R216). -/
  host : List HostEvent
deriving DecidableEq, Repr

/-- No step of this machine faults: "there is no trap, hang or undefined result inside the engine" (R10, R208). So
there is no fault reason; the type is closed and empty, which is safe. -/
inductive Fault
deriving DecidableEq, Repr

/-- Why a step has no meaning. -/
inductive Refusal
  /-- Raised by an arm of `exec` whose instruction has no meaning yet; safe, since nothing is claimed of it. No arm raises it now. -/
  | notModelled (mnemonic : String)
deriving DecidableEq, Repr

/-- The receiver at power-up: "all unknown at power-up" (R58), the scanner waiting for an idle pair. -/
def Receiver.powerUp : Receiver :=
  { scan := .hunting, inbox := [], args := [], mode := none, mem := [], on := none, bright := none }

/-- The machine right after hardware reset (R33, R230), with nothing on the command port and every draw free. -/
def State.reset : State :=
  { sess := .uninit
    bus := .idle
    seq := .rest
    clkDrv := .z
    dioDrv := .z
    ctl := 0#4
    buf := { b0 := 0x00#8, b1 := 0x00#8, b2 := 0x00#8, b3 := 0x00#8 }
    lastAck := true
    ackMiss := false
    rspStatus := .ok
    rspAck := true
    rspValid := false
    samples := []
    trace := []
    rx := Receiver.powerUp
    env := { dio := [], acq := [], drawn := 0 }
    host := [] }

end Sys2Proof.Machine
end

