-- ==== Sys2Proof/Machine/Flags.lean ====
section
/-! DEFINITION. Every flag computation of the spec: the ACK of a sample, the two ACK flags (R28, R104, R107), and the
response of an operation that sends bytes (R183). -/

namespace Sys2Proof.Machine

/-- `ack = (dio_in = L)`: "chip pulls DATA low to acknowledge" (R104). -/
def ackOf (x : Level) : Bool := decide (x = .low)

/-- The result of the operation's most recent ACK sample. -/
def lastAckOf (samples : List Level) : Bool := decide (samples.getLast? = some .low)

/-- `rsp_ack`: 1 if and only if every ACK sample of the operation observed an ACK, 1 when there was none (R29, R183). -/
def allAcked (samples : List Level) : Bool := samples.all ackOf

/-- `rsp_status <- OK` if `rsp_ack = 1`, else `ACK_MISSING` (R107, R183). -/
def ackStatus (ack : Bool) : Status := if ack then .ok else .ackMissing

/-- `last_ack <- ack; if not ack: ack_miss <- 1`, after phase 29 of WRITEBYTE (R107). -/
def State.latchAck (s : State) : State :=
  { s with
    lastAck := lastAckOf s.samples
    ackMiss := s.ackMiss || !lastAckOf s.samples }

end Sys2Proof.Machine
end

