-- ==== Sys2Proof/Machine/Operands.lean ====
section
/-! DEFINITION. Every operand form: the brightness level brought into range (R174), and the Segment Encoder
(42_segment_encoder.md), which turns numbers and text into display buffers. All functions are pure (R140). -/

namespace Sys2Proof.Machine

/-- The level after the clamp, `min(level, 7)`, whose result fits 3 bits: "a saturation, not a truncation" (R156, R174). -/
def clampLevel (level : Byte) : BitVec 3 := BitVec.ofNat 3 (min level.toNat Config.brightMax)

/-- The level BRIGHTNESS writes under a policy, or nothing where the policy rejects it (R174, R203). -/
def brightOperand (policy : BrightPolicy) (level : Byte) : Option (BitVec 3) :=
  match policy with
  | .clamp => some (clampLevel level)
  | .reject => if level.toNat ≤ Config.brightMax then some (clampLevel level) else none

/-- `RomDigit` and ENC_DIGIT (R141). Defined for 0 to 9 only, by its type. UNVERIFIED but for 0: general knowledge
in the spec (log entry 11). -/
def romDigit : Fin 10 → Byte
  | 0 => 0x3F#8
  | 1 => 0x06#8
  | 2 => 0x5B#8
  | 3 => 0x4F#8
  | 4 => 0x66#8
  | 5 => 0x6D#8
  | 6 => 0x7D#8
  | 7 => 0x07#8
  | 8 => 0x7F#8
  | 9 => 0x6F#8

/-- The rows of R144's table: the codes of a character, upper and lower case where there are two, and its pattern.
UNVERIFIED: the letters are general knowledge in the spec (log entry 11). -/
def charRows : List (List Byte × Byte) :=
  [ ([0x20#8], 0x00#8), ([0x2D#8], 0x40#8),
    ([0x30#8], 0x3F#8), ([0x31#8], 0x06#8), ([0x32#8], 0x5B#8), ([0x33#8], 0x4F#8), ([0x34#8], 0x66#8),
    ([0x35#8], 0x6D#8), ([0x36#8], 0x7D#8), ([0x37#8], 0x07#8), ([0x38#8], 0x7F#8), ([0x39#8], 0x6F#8) ] ++
  [ ([0x41#8, 0x61#8], 0x77#8), ([0x42#8, 0x62#8], 0x7C#8), ([0x43#8, 0x63#8], 0x39#8), ([0x44#8, 0x64#8], 0x5E#8),
    ([0x45#8, 0x65#8], 0x79#8), ([0x46#8, 0x66#8], 0x71#8), ([0x47#8, 0x67#8], 0x3D#8), ([0x48#8, 0x68#8], 0x76#8),
    ([0x49#8, 0x69#8], 0x06#8), ([0x4A#8, 0x6A#8], 0x1E#8), ([0x4C#8, 0x6C#8], 0x38#8), ([0x4E#8, 0x6E#8], 0x54#8) ] ++
  [ ([0x4F#8, 0x6F#8], 0x3F#8), ([0x50#8, 0x70#8], 0x73#8), ([0x52#8, 0x72#8], 0x50#8), ([0x53#8, 0x73#8], 0x6D#8),
    ([0x54#8, 0x74#8], 0x78#8), ([0x55#8, 0x75#8], 0x3E#8), ([0x59#8, 0x79#8], 0x6E#8) ]

/-- `RomChar` and ENC_CHAR (R144): "Every code not in the table ... gives 0x00". -/
def romChar (c : Byte) : Byte :=
  match charRows.find? (fun row => row.1.contains c) with
  | some row => row.2
  | none => Config.segBlank

/-- `digits10` with a bound on its recursion: `fuel` digits are split off at most. -/
def digitsFuel : Nat → Nat → List (Fin 10)
  | 0, n => [Fin.ofNat 10 n]
  | fuel + 1, n => if n < 10 then [Fin.ofNat 10 n] else digitsFuel fuel (n / 10) ++ [Fin.ofNat 10 n]

/-- `digits10(n)` of R145: the decimal digits, most significant first, `[0]` for 0. A number has no more digits than its
value, so the bound is never reached. -/
def digits10 (n : Nat) : List (Fin 10) := digitsFuel n n

/-- The pad glyph of short numbers (R146). -/
def padGlyph (padZero : Bool) : Byte := if padZero then romDigit 0 else Config.segBlank

/-- FMT_NUMBER (R146): exactly `w` glyphs; short numbers are padded on the left, long ones keep their leftmost digits. -/
def fmtNumber (n w : Nat) (padZero : Bool) : List Byte :=
  if w ≤ (digits10 n).length then ((digits10 n).take w).map romDigit
  else List.replicate (w - (digits10 n).length) (padGlyph padZero) ++ (digits10 n).map romDigit

/-- The buffer whose registers are a list's first four bytes; FMT_PAIR hands it exactly four. -/
def quadOfList (bs : List Byte) : Quad :=
  { b0 := bs.getD 0 Config.segBlank, b1 := bs.getD 1 Config.segBlank
    b2 := bs.getD 2 Config.segBlank, b3 := bs.getD 3 Config.segBlank }

/-- The separator: bit 7 of `r[COLON_INDEX]`, index 1 counted from 0 (R150). -/
def withColon (colon : Bool) (q : Quad) : Quad :=
  if colon then { q with b1 := q.b1 ||| Config.segColon } else q

/-- FMT_PAIR (R150), with the pad parameter as an argument. -/
def fmtPair (padZero : Bool) (a b : BitVec 16) (colon : Bool) : Quad :=
  withColon colon (quadOfList (fmtNumber a.toNat 2 padZero ++ fmtNumber b.toNat 2 padZero))

/-- The glyph at one position of a text of length `len` (R152). -/
def textGlyph (len : Byte) (i : Nat) (c : Byte) : Byte :=
  if i < len.toNat then romChar c else Config.segBlank

/-- FMT_TEXT (R152): glyphs from index 0, blank beyond the text's length. -/
def fmtText (len : Byte) (chars : Quad) : Quad :=
  { b0 := textGlyph len 0 chars.b0, b1 := textGlyph len 1 chars.b1
    b2 := textGlyph len 2 chars.b2, b3 := textGlyph len 3 chars.b3 }

/-- The all-blank buffer of CLEAR (R181) and CONSTRUCT (R172). -/
def blankQuad : Quad :=
  { b0 := Config.segBlank, b1 := Config.segBlank, b2 := Config.segBlank, b3 := Config.segBlank }

end Sys2Proof.Machine
end

