-- ==== Sys2Proof/Machine/Scanner.lean ====
section
/-! DEFINITION. Reading the wire (R59, R60): what the receiver makes of each change of the two lines, and the same
reading over a whole trace. -/

namespace Sys2Proof.Machine

/-- The level of CLOCK a receiver sees: `Z` reads as `H`, pulled up (R59). -/
def clockHigh (c : Drive) : Bool := decide (c ≠ .l)

/-- A start condition: CLOCK stays high and DATA goes `H -> L` (R59). -/
def isStart (c d c' d' : Drive) : Bool := clockHigh c && clockHigh c' && decide (d = .h) && decide (d' = .l)

/-- A stop condition: CLOCK stays high and DATA goes `L -> H` (R59). -/
def isStop (c d c' d' : Drive) : Bool := clockHigh c && clockHigh c' && decide (d = .l) && decide (d' = .h)

/-- A clock rise: CLOCK goes `L -> H` (R59). -/
def isRise (c c' : Drive) : Bool := !clockHigh c && clockHigh c'

/-- The byte whose bits, least significant first, are these (R51). -/
def byteOfBits (bits : List Bool) : Byte :=
  bits.foldr (fun x acc => (acc <<< 1) ||| (if x then 1#8 else 0#8)) 0#8

/-- What a change of the lines tells the receiver. -/
inductive Heard
  | nothing
  /-- A stop condition closed a frame with these complete bytes. -/
  | frame (bytes : List Byte)
  /-- DATA was not driven at a data clock, or was driven at an ACK clock: the receiver has lost its place (log entry 12). -/
  | lost
deriving DecidableEq, Repr

/-- A clock rise inside a frame: "the first eight each shift in one data bit ...; the ninth is the ACK clock, during
which `d = Z`" (R59). -/
def clockIn (bits : List Bool) (bytes : List Byte) (d : Drive) : Scan × Heard :=
  if bits.length < 8 then
    match d with
    | .h => (.inFrame (bits ++ [true]) bytes, .nothing)
    | .l => (.inFrame (bits ++ [false]) bytes, .nothing)
    | .z => (.hunting, .lost)
  else
    match d with
    | .z => (.inFrame [] (bytes ++ [byteOfBits bits]), .nothing)
    | .l | .h => (.hunting, .lost)

/-- One step of R59's scan, from the pair `(c, d)` to the pair `(c', d')`. A stop condition closes the frame and drops the
bits of an incomplete group. -/
def scanStep (scan : Scan) (c d c' d' : Drive) : Scan × Heard :=
  match scan with
  | .hunting => if clockHigh c' && decide (d' = .h) then (.idle, .nothing) else (.hunting, .nothing)
  | .idle => if isStart c d c' d' then (.inFrame [] [], .nothing) else (.idle, .nothing)
  | .inFrame bits bytes =>
    if isStart c d c' d' then (.inFrame [] [], .nothing)
    else if isStop c d c' d' then (.idle, .frame bytes)
    else if isRise c c' then clockIn bits bytes d'
    else (.inFrame bits bytes, .nothing)

/-- The receiver's whole state becomes unknown (R58). -/
def Receiver.forget (rx : Receiver) : Receiver := { rx with mode := none, mem := [], on := none, bright := none }

/-- The receiver sees the lines go from `(c, d)` to `(c', d')`. A completed frame joins the inbox. -/
def Receiver.hear (rx : Receiver) (c d c' d' : Drive) : Receiver :=
  match scanStep rx.scan c d c' d' with
  | (scan, .nothing) => { rx with scan := scan }
  | (scan, .frame bytes) => { rx with scan := scan, inbox := rx.inbox ++ [bytes] }
  | (scan, .lost) => { rx.forget with scan := scan, inbox := [] }

/-- The line pairs of a trace, one per phase (R60). -/
def pairsOf : List Event → List (Drive × Drive)
  | [] => []
  | .ph c d :: tr => (c, d) :: pairsOf tr
  | .smp _ :: tr => pairsOf tr

/-- The samples of a trace (R60). -/
def samplesOf : List Event → List Level
  | [] => []
  | .ph _ _ :: tr => samplesOf tr
  | .smp x :: tr => x :: samplesOf tr

/-- Merge each run of equal consecutive pairs into one (R60). -/
def mergeRuns : List (Drive × Drive) → List (Drive × Drive)
  | [] => []
  | p :: ps => if (mergeRuns ps).head? = some p then mergeRuns ps else p :: mergeRuns ps

/-- The waveform of a trace (R60). -/
def waveform (tr : List Event) : List (Drive × Drive) := mergeRuns (pairsOf tr)

/-- Frame extraction (R59) over a list of line pairs, from the pair `(c, d)` and a place of the scanner: where the scanner
ends, and the frames closed on the way. -/
def extractFrom (scan : Scan) (c d : Drive) : List (Drive × Drive) → Scan × List (List Byte)
  | [] => (scan, [])
  | (c', d') :: ps =>
    match scanStep scan c d c' d' with
    | (scan', .frame bytes) => ((extractFrom scan' c' d' ps).1, bytes :: (extractFrom scan' c' d' ps).2)
    | (scan', .nothing) | (scan', .lost) => extractFrom scan' c' d' ps

end Sys2Proof.Machine
end

