-- ==== Sys2Proof/Machine/Ops.lean ====
section
/-! DEFINITION. The named operations over the display registers and the engine's registers, the phase (R101), `raise`
and the response (R200, R183), and the running of an operation, whole or phase by phase (R20). -/

namespace Sys2Proof.Machine

/-! ### The display register space (R50, R55) -/

/-- The byte of a display register; nothing where the receiver does not know it (R58). -/
def Memory.read : Memory → Nat → Option Byte
  | [], _ => none
  | (a, v) :: m, x => if x = a then some v else Memory.read m x

/-- `G[x] <- v`, keeping the cells sorted by address (R58). -/
def Memory.write : Memory → Nat → Byte → Memory
  | [], x, v => [(x, v)]
  | (a, w) :: m, x, v =>
    if x < a then (x, v) :: (a, w) :: m
    else if x = a then (a, v) :: m
    else (a, w) :: Memory.write m x v

/-- `MemWrite(a, n, v)`: display register `a+i` receives byte `i` (R57). -/
def Memory.writeFrom (m : Memory) (a : Nat) : List Byte → Memory
  | [] => m
  | v :: vs => Memory.writeFrom (Memory.write m a v) (a + 1) vs

/-- Addresses strictly rise. -/
def Memory.sorted : Memory → Bool
  | [] => true
  | [_] => true
  | (a, _) :: (b, w) :: m => decide (a < b) && Memory.sorted ((b, w) :: m)

/-- The canonical form: addresses strictly rise, and none is above `ADDR_MAX` (R50, R55). No byte is the value of an
unlisted address, so no cell is superfluous. -/
def Memory.wf (m : Memory) : Bool := Memory.sorted m && m.all (fun cell => decide (cell.1 ≤ Config.addrMax))

/-! ### The environment's draws (R24, R104) -/

/-- The level the next ACK sample reads. -/
def Env.dioIn (e : Env) : Level :=
  match e.dio with
  | x :: _ => x
  | [] => Config.freeDioIn e.drawn

/-- The environment after an ACK sample. -/
def Env.afterDio (e : Env) : Env :=
  match e.dio with
  | _ :: xs => { e with dio := xs }
  | [] => { e with drawn := e.drawn + 1 }

/-- The next grant `acq_ok`. -/
def Env.acqOk (e : Env) : Bool :=
  match e.acq with
  | x :: _ => x
  | [] => Config.freeAcqOk e.drawn

/-- The environment after a grant was sampled. -/
def Env.afterAcq (e : Env) : Env :=
  match e.acq with
  | _ :: xs => { e with acq := xs }
  | [] => { e with drawn := e.drawn + 1 }

/-! ### Registers, lines and the response -/

/-- `ctl.on <- on` (R22). -/
def State.setOn (s : State) (on : Bool) : State := { s with ctl := ctlOf on (ctlBright s.ctl) }

/-- `ctl.bright <- bright` (R22). -/
def State.setBright (s : State) (bright : BitVec 3) : State := { s with ctl := ctlOf (ctlOn s.ctl) bright }

/-- `buf <- q`, all registers at once (R21). -/
def State.setBuf (s : State) (q : Quad) : State := { s with buf := q }

/-- `acq_ok` was sampled (R172). -/
def State.tookAcq (s : State) : State := { s with env := s.env.afterAcq }

/-- Assign the line drivers, hold, and emit the phase event; nothing means the line is left as it is (R9, R101). The receiver
sees the lines move. -/
def State.drive (s : State) (clk dio : Option Drive) : State :=
  { s with
    clkDrv := clk.getD s.clkDrv
    dioDrv := dio.getD s.dioDrv
    trace := s.trace ++ [.ph (clk.getD s.clkDrv) (dio.getD s.dioDrv)]
    rx := s.rx.hear s.clkDrv s.dioDrv (clk.getD s.clkDrv) (dio.getD s.dioDrv) }

/-- `sample()`: read `dio_in` and emit it (R104). -/
def State.sampleDio (s : State) : State :=
  { s with
    samples := s.samples ++ [s.env.dioIn]
    trace := s.trace ++ [.smp s.env.dioIn]
    env := s.env.afterDio }

/-- What the end of a phase writes. -/
def State.applyEffect (s : State) (e : Effect) : State :=
  match e with
  | .none => s
  | .openFrame => { s with bus := .frame }
  | .latchAck => s.latchAck
  | .closeFrame => { s with bus := .idle }

/-- One phase (R101): the line assignment and its hold, the sample where the phase has one, what its end writes. -/
def State.runPhase (s : State) (p : Phase) : State :=
  if p.sample then ((s.drive p.clk p.dio).sampleDio).applyEffect p.effect
  else (s.drive p.clk p.dio).applyEffect p.effect

/-- A sequence of phases, in order (R61, R187). -/
def State.runPhases (s : State) (ps : List Phase) : State := ps.foldl State.runPhase s

/-- The response: the two response registers, `rsp_valid`, and `seq` back at REST (R27, R29). -/
def State.respond (s : State) (status : Status) (ack : Bool) : State :=
  { s with rspStatus := status, rspAck := ack, rspValid := true, seq := .rest }

/-- `raise X` (R200), the engine's form of taking an exception: end the operation now with the condition's code and
`rsp_ack` 1, "and nothing else". Nothing is saved and control goes nowhere (R208), so there is nothing to return from (R209). -/
def State.raise (s : State) (condition : Status) : State := s.respond condition true

/-- What CONSTRUCT writes after its phases (R172). -/
def State.constructed (s : State) : State :=
  { s with
    ctl := ctlOf Config.resetOn Config.resetBright
    buf := blankQuad
    lastAck := true
    ackMiss := false
    bus := .idle
    sess := .idle }

/-- The end of an operation (R105, R107, R110, R172, R173, R183). -/
def State.finish (s : State) (f : Finish) : State :=
  match f with
  | .construct => s.constructed.respond .ok true
  | .release => ({ s with sess := .released }).respond .ok true
  | .ok => s.respond .ok true
  | .acks => s.respond (ackStatus (allAcked s.samples)) (allAcked s.samples)

/-! ### Operations -/

/-- What an accepted command comes to: a condition raised before the first phase, or the state written before the first
phase (R184), the phases, and the end. -/
inductive Plan
  | reply (s : State) (condition : Status)
  | run (s : State) (phases : List Phase) (fin : Finish)
deriving DecidableEq, Repr

/-- An operation begins with no ACK sample taken (R183). -/
def State.begin (s : State) : State := { s with samples := [] }

/-- The whole operation as one step (R20). -/
def Plan.perform : Plan → State
  | .reply s condition => s.raise condition
  | .run s phases fin => (s.begin.runPhases phases).finish fin

/-- Acceptance of the operation, its phases to come one by one (R20, R27). -/
def Plan.launch : Plan → State
  | .reply s condition => s.raise condition
  | .run s [] fin => s.begin.finish fin
  | .run s (p :: ps) fin => { s.begin with seq := .busy p ps fin }

/-- `seq` advances by one phase, and returns to REST with the response after the last (R27); before that no response is given, so
`rsp_valid` is 0 (R25). -/
def State.advance (s : State) : State :=
  match s.seq with
  | .rest => s
  | .busy p [] fin => (s.runPhase p).finish fin
  | .busy p (q :: ps) fin => { s.runPhase p with seq := .busy q ps fin, rspValid := false }

/-- The state in which the operation in progress ends: all its remaining phases, and its response. -/
def State.complete (s : State) : State :=
  match s.seq with
  | .rest => s
  | .busy p ps fin => (s.runPhases (p :: ps)).finish fin

/-- `sess = IDLE and bus = BUS_IDLE`: the `require` of the session operations and of START (R105, R170). -/
def State.ready (s : State) : Bool := decide (s.sess = .idle) && decide (s.bus = .idle)

/-- `sess = IDLE and bus = BUS_FRAME`: the `require` of WRITEBYTE and STOP (R107, R110). -/
def State.midFrame (s : State) : Bool := decide (s.sess = .idle) && decide (s.bus = .frame)

/-- `require`: the operation goes on only where its condition holds, else it is refused with ILLEGAL_STATE (R204). -/
def Plan.require (legal : Bool) (s : State) (plan : Plan) : Plan := if legal then plan else .reply s .illegalState

/-- Hardware reset for one edge (R230): every register takes its value of R33; host and environment go on. The chip is not
reset by the engine (R33), but a frame or an operation cut short leaves its state unknown (R231). -/
def State.hwReset (s : State) : State :=
  { State.reset with
    rx := if s.seq = .rest ∧ s.bus = .idle then { s.rx with scan := .hunting } else Receiver.powerUp
    env := s.env
    host := s.host }

end Sys2Proof.Machine
end

