-- ==== Sys2Proof/Machine/Reserved.lean ====
section
/-! DEFINITION. The four reserved `op` values (R82): refused with ILLEGAL_OP in every state, changing no state and no
line but the response (R204, R207). -/

namespace Sys2Proof.Machine

/-- A word whose `op` names no operation (R82, R204): ILLEGAL_OP. -/
def planReserved (s : State) : Plan := .reply s .illegalOp

/-- Meaning of `op` 0x0 (R82). -/
def execReservedOp0 (s : State) : Host.Outcome State Fault Refusal := .next (planReserved s).perform

/-- Meaning of `op` 0xD (R82). -/
def execReservedOpD (s : State) : Host.Outcome State Fault Refusal := .next (planReserved s).perform

/-- Meaning of `op` 0xE (R82). -/
def execReservedOpE (s : State) : Host.Outcome State Fault Refusal := .next (planReserved s).perform

/-- Meaning of `op` 0xF (R82). -/
def execReservedOpF (s : State) : Host.Outcome State Fault Refusal := .next (planReserved s).perform

end Sys2Proof.Machine
end

