-- ==== Sys2Proof/Machine/Transport.lean ====
section
/-! DEFINITION. The Bit-Bang Transport (40_transport.md): the phase tables of START, WRITEBYTE and STOP, frames made of
them, and the meanings of the three operations. `f`, `k` are the frame and byte index of R27. Which byte a phase that sends none counts
with is the model's choice (log entry 9). -/

namespace Sys2Proof.Machine

/-- A phase with no sample and no write at its end. -/
def plainPhase (part : Part) (f k p : Nat) (clk dio : Option Drive) : Phase :=
  { part := part, frame := f, byte := k, index := p, clk := clk, dio := dio, sample := false, effect := .none }

/-- START (R105): `phase(-, L)`, then `bus <- BUS_FRAME`. -/
def startPhases (f : Nat) : List Phase :=
  [{ plainPhase .start f 0 1 none (some .l) with effect := .openFrame }]

/-- Bit cell `i` (R106): CLOCK low, DATA takes the bit while CLOCK is low, CLOCK high. -/
def bitCell (f k i : Nat) (x : Bool) : List Phase :=
  [ plainPhase .write f k (3 * i + 1) (some .l) none
  , plainPhase .write f k (3 * i + 2) none (some (if x then .h else .l))
  , plainPhase .write f k (3 * i + 3) (some .h) none ]

/-- Phases 25 to 29 (R107): the ACK cell. -/
def ackCell (f k : Nat) : List Phase :=
  [ plainPhase .write f k 25 (some .l) none
  , plainPhase .write f k 26 none (some .z)
  , { plainPhase .write f k 27 (some .h) none with sample := true }
  , plainPhase .write f k 28 (some .l) none
  , { plainPhase .write f k 29 none (some .l) with effect := .latchAck } ]

/-- WRITEBYTE(v) (R107): eight bit cells, least significant bit first (R51), and the ACK cell. -/
def writePhases (f k : Nat) (v : Byte) : List Phase :=
  bitCell f k 0 (v.getLsbD 0) ++ (bitCell f k 1 (v.getLsbD 1) ++ (bitCell f k 2 (v.getLsbD 2) ++
  (bitCell f k 3 (v.getLsbD 3) ++ (bitCell f k 4 (v.getLsbD 4) ++ (bitCell f k 5 (v.getLsbD 5) ++
  (bitCell f k 6 (v.getLsbD 6) ++ (bitCell f k 7 (v.getLsbD 7) ++ ackCell f k)))))))

/-- STOP (R110), then `bus <- BUS_IDLE`. -/
def stopPhases (f k : Nat) : List Phase :=
  [ plainPhase .stop f k 1 (some .l) none
  , plainPhase .stop f k 2 none (some .l)
  , plainPhase .stop f k 3 (some .h) none
  , { plainPhase .stop f k 4 none (some .h) with effect := .closeFrame } ]

/-- The byte cells of a frame, in list order (R52, R76). -/
def bytePhases (f : Nat) : Nat → List Byte → List Phase
  | _, [] => []
  | k, v :: vs => writePhases f k v ++ bytePhases f (k + 1) vs

/-- A frame: one start condition, its bytes, one stop condition (R76). DESIGN CHOICE: START counts with byte 0 and STOP with the
frame's last byte, so that the byte index keeps R156's range 0 to NDIGITS (log entry 9). -/
def framePhases (f : Nat) (bytes : List Byte) : List Phase :=
  startPhases f ++ (bytePhases f 0 bytes ++ stopPhases f (bytes.length - 1))

/-- START from the command port (R105). -/
def planStart (s : State) : Plan := Plan.require s.ready s (.run s (startPhases 0) .ok)

/-- STOP from the command port (R110). DESIGN CHOICE: it counts with byte 0 of frame 0 (log entry 9). -/
def planStop (s : State) : Plan := Plan.require s.midFrame s (.run s (stopPhases 0 0) .ok)

/-- WRITEBYTE from the command port (R107). DESIGN CHOICE: it counts with byte 0 of frame 0, whichever byte of the open frame it
is (log entry 9). -/
def planWriteByte (v : Byte) (s : State) : Plan := Plan.require s.midFrame s (.run s (writePhases 0 0 v) .acks)

/-- Meaning of START (R105). -/
def execStart (s : State) : Host.Outcome State Fault Refusal := .next (planStart s).perform

/-- Meaning of STOP (R110). -/
def execStop (s : State) : Host.Outcome State Fault Refusal := .next (planStop s).perform

/-- Meaning of WRITEBYTE (R107). -/
def execWriteByte (v : Byte) (s : State) : Host.Outcome State Fault Refusal := .next (planWriteByte v s).perform

end Sys2Proof.Machine
end

