-- ==== Sys2Proof/Machine/Session.lean ====
section
/-! DEFINITION. The Display Session (43_session.md): SEND_CTRL, WRITE_DISPLAY and the nine session operations. -/

namespace Sys2Proof.Machine

/-- `F_CTRL` = `[ENC_CTRL(ctl.on, ctl.bright)]` (R77). -/
def frameCtrl (ctl : BitVec 4) : List Byte := [encCtrl (ctlOn ctl) (ctlBright ctl)]

/-- `F_DATA` = `[ENC_DATA(AUTO)]` (R77). -/
def frameData : List Byte := [encData .auto]

/-- `F_ADDR` = `[ENC_ADDR(0), buf[0], ..., buf[3]]` (R77). -/
def frameAddr (buf : Quad) : List Byte := (encAddr 0#3).toList ++ buf.toList

/-- SEND_CTRL (R177), as the only frame of its operation. -/
def sendCtrlPhases (ctl : BitVec 4) : List Phase := framePhases 0 (frameCtrl ctl)

/-- WRITE_DISPLAY (R178): the three frames, in this order. -/
def writeDisplayPhases (buf : Quad) (ctl : BitVec 4) : List Phase :=
  framePhases 0 frameData ++ (framePhases 1 (frameAddr buf) ++ framePhases 2 (frameCtrl ctl))

/-- A control operation: `ctl` is written first (R184), then SEND_CTRL, then the response of R183. -/
def controlPlan (s : State) : Plan := .run s (sendCtrlPhases s.ctl) .acks

/-- A display write: `buf` is written first (R184), then WRITE_DISPLAY, then the response of R183. -/
def displayPlan (s : State) : Plan := .run s (writeDisplayPhases s.buf s.ctl) .acks

/-- CONSTRUCT's two phases (R172): CLOCK `Z -> H`, then DATA `Z -> H`. -/
def constructPhases : List Phase := [plainPhase .lines 0 0 1 (some .h) none, plainPhase .lines 0 0 2 none (some .h)]

/-- RELEASE's two phases (R173): DATA, then CLOCK, no longer driven. -/
def releasePhases : List Phase := [plainPhase .lines 0 0 1 none (some .z), plainPhase .lines 0 0 2 (some .z) none]

/-- CONSTRUCT (R172). `acq_ok` is looked at only where the operation is legal (R207). -/
def planConstruct (s : State) : Plan :=
  Plan.require (decide (s.sess = .uninit)) s
    (if s.env.acqOk then .run s.tookAcq constructPhases .construct else .reply s.tookAcq .acquisitionFailure)

/-- RELEASE (R173). -/
def planRelease (s : State) : Plan := Plan.require s.ready s (.run s releasePhases .release)

/-- BRIGHTNESS under a policy (R174): CLAMP brings the level into range, REJECT raises INVALID_BRIGHTNESS. -/
def planBrightness (policy : BrightPolicy) (level : Byte) (s : State) : Plan :=
  Plan.require s.ready s
    (match brightOperand policy level with
     | some bright => controlPlan (s.setBright bright)
     | none => .reply s .invalidBrightness)

/-- ON (R175): "toggles" means sets. -/
def planOn (s : State) : Plan := Plan.require s.ready s (controlPlan (s.setOn true))

/-- OFF (R176). -/
def planOff (s : State) : Plan := Plan.require s.ready s (controlPlan (s.setOn false))

/-- SHOW (R179). -/
def planShow (len : Byte) (chars : Quad) (s : State) : Plan :=
  Plan.require s.ready s (displayPlan (s.setBuf (fmtText len chars)))

/-- NUMBERS (R180), with the pad parameter as an argument. -/
def planNumbers (padZero : Bool) (a b : BitVec 16) (colon : Bool) (s : State) : Plan :=
  Plan.require s.ready s (displayPlan (s.setBuf (fmtPair padZero a b colon)))

/-- CLEAR (R181). -/
def planClear (s : State) : Plan := Plan.require s.ready s (displayPlan (s.setBuf blankQuad))

/-- RAW (R182). -/
def planRaw (segs : Quad) (s : State) : Plan := Plan.require s.ready s (displayPlan (s.setBuf segs))

/-- Meaning of CONSTRUCT (R172). -/
def execConstruct (s : State) : Host.Outcome State Fault Refusal := .next (planConstruct s).perform

/-- Meaning of RELEASE (R173). -/
def execRelease (s : State) : Host.Outcome State Fault Refusal := .next (planRelease s).perform

/-- Meaning of BRIGHTNESS (R174) under the policy of R5. -/
def execBrightness (level : Byte) (s : State) : Host.Outcome State Fault Refusal :=
  .next (planBrightness Config.brightPolicy level s).perform

/-- Meaning of ON (R175). -/
def execOn (s : State) : Host.Outcome State Fault Refusal := .next (planOn s).perform

/-- Meaning of OFF (R176). -/
def execOff (s : State) : Host.Outcome State Fault Refusal := .next (planOff s).perform

/-- Meaning of SHOW (R179). -/
def execShow (len : Byte) (chars : Quad) (s : State) : Host.Outcome State Fault Refusal :=
  .next (planShow len chars s).perform

/-- Meaning of NUMBERS (R180) under the padding of R5. -/
def execNumbers (a b : BitVec 16) (colon : Bool) (s : State) : Host.Outcome State Fault Refusal :=
  .next (planNumbers Config.padZero a b colon s).perform

/-- Meaning of CLEAR (R181). -/
def execClear (s : State) : Host.Outcome State Fault Refusal := .next (planClear s).perform

/-- Meaning of RAW (R182). -/
def execRaw (segs : Quad) (s : State) : Host.Outcome State Fault Refusal := .next (planRaw segs s).perform

end Sys2Proof.Machine
end

