-- ==== Sys2Proof/Machine/Wire.lean ====
section
/-! DEFINITION. The wire command bytes as the reference receiver executes them (R57, R58). The data bytes of the frame are
in the receiver's `args`; every frame that is not of a kind R58 names makes the whole receiver unknown. The engine's
registers are not touched: "the engine never learns whether the chip took the bytes" (R57). -/

namespace Sys2Proof.Machine

/-- A data command (R58): the frame `[0x40]` or `[0x44]` sets the mode. -/
def Receiver.dataCommand (rx : Receiver) (mode : AddrMode) : Receiver :=
  if rx.args = [] then { rx with mode := some mode } else rx.forget

/-- The condition of R58 under which an address frame stores: `a <= 5`, at least one data byte, AUTO, no overflow past 5. -/
def Receiver.stores (rx : Receiver) (a : Nat) : Bool :=
  decide (a ≤ Config.addrMax) && decide (1 ≤ rx.args.length) && decide (rx.mode = some .auto) &&
    decide (a + rx.args.length ≤ Config.maxDigits)

/-- An address command (R57, R58): `G[a+i] <- ds[i]`. -/
def Receiver.addrCommand (rx : Receiver) (a : Nat) : Receiver :=
  if rx.stores a then { rx with mem := Memory.writeFrom rx.mem a rx.args } else rx.forget

/-- A display control command (R58): the frame `[0x80 | x]` sets on/off and brightness. -/
def Receiver.ctrlCommand (rx : Receiver) (on : Bool) (bright : BitVec 3) : Receiver :=
  if rx.args = [] then { rx with on := some on, bright := some bright } else rx.forget

/-- The frame has been executed: its data bytes are gone. -/
def Receiver.done (rx : Receiver) : Receiver := { rx with args := [] }

/-- The receiver has executed a frame. -/
def State.received (s : State) (rx : Receiver) : State := { s with rx := rx.done }

/-- Meaning of DATA_CMD_AUTO (R57, R58). -/
def execDataCmdAuto (s : State) : Host.Outcome State Fault Refusal := .next (s.received (s.rx.dataCommand .auto))

/-- Meaning of DATA_CMD_FIXED (R58). -/
def execDataCmdFixed (s : State) : Host.Outcome State Fault Refusal := .next (s.received (s.rx.dataCommand .fixed))

/-- Meaning of ADDR_CMD (R57, R58). -/
def execAddrCmd (address : BitVec 3) (s : State) : Host.Outcome State Fault Refusal :=
  .next (s.received (s.rx.addrCommand address.toNat))

/-- Meaning of CTRL_CMD (R57, R58). -/
def execCtrlCmd (on : Bool) (brightness : BitVec 3) (s : State) : Host.Outcome State Fault Refusal :=
  .next (s.received (s.rx.ctrlCommand on brightness))

end Sys2Proof.Machine
end

