-- ==== Sys2Proof/Syntax.lean ====
section
/-! DEFINITION. The instructions: one constructor per row of spec/opcode_table.json. Sixteen are command words the
engine accepts on its command port (R80, R82); four are wire command bytes, which the receiver takes as the first
byte of a frame (R72 to R74, R57). -/

namespace Sys2Proof

/-- One constructor per row of the opcode table, with the operands the row uses (R80, R81). -/
inductive Instr
  /-- `op` 0x1, `construct()` (R172). -/
  | construct
  /-- `op` 0x2, `release()` (R173). -/
  | release
  /-- `op` 0x3, `brightness(level)`, the level unsigned 8 bits (R174). -/
  | brightness (level : Byte)
  /-- `op` 0x4, `on()` (R175). -/
  | on
  /-- `op` 0x5, `off()` (R176). -/
  | off
  /-- `op` 0x6, `show(text)`: the text's length and its first four character codes (R179). -/
  | showText (len : Byte) (chars : Quad)
  /-- `op` 0x7, `numbers(a, b, colon)` (R180). -/
  | numbers (a b : BitVec 16) (colon : Bool)
  /-- `op` 0x8, `clear()` (R181). -/
  | clear
  /-- `op` 0x9, `raw([s0, s1, s2, s3])` (R182). -/
  | raw (segs : Quad)
  /-- `op` 0xA, `start()` (R105). -/
  | start
  /-- `op` 0xB, `stop()` (R110). -/
  | stop
  /-- `op` 0xC, `write_byte(v)` (R107). -/
  | writeByte (v : Byte)
  /-- `op` 0x0, reserved (R82). -/
  | reservedOp0
  /-- `op` 0xD, reserved (R82). -/
  | reservedOpD
  /-- `op` 0xE, reserved (R82). -/
  | reservedOpE
  /-- `op` 0xF, reserved (R82). -/
  | reservedOpF
  /-- Wire byte 0x40: auto-increment addressing (R72, R57). -/
  | dataCmdAuto
  /-- Wire byte 0x44: fixed addressing (R72, R58). -/
  | dataCmdFixed
  /-- Wire byte 0xC0 | address: the starting digit register (R73, R57). -/
  | addrCmd (address : BitVec 3)
  /-- Wire byte 0x80 | on<<3 | brightness (R74, R57). -/
  | ctrlCmd (on : Bool) (brightness : BitVec 3)
deriving DecidableEq, Repr

end Sys2Proof
end

