-- ==== Sys2Proof/Machine/Dispatch.lean ====
section
/-! DEFINITION. One arm per instruction, each one call of its meaning. -/

namespace Sys2Proof.Machine

def exec (i : Instr) (s : State) : Host.Outcome State Fault Refusal :=
  match i with
  -- command words: the engine executes
  | .construct => Sys2Proof.Machine.execConstruct s
  | .release => Sys2Proof.Machine.execRelease s
  | .brightness level => Sys2Proof.Machine.execBrightness level s
  | .on => Sys2Proof.Machine.execOn s
  | .off => Sys2Proof.Machine.execOff s
  | .showText len chars => Sys2Proof.Machine.execShow len chars s
  | .numbers a b colon => Sys2Proof.Machine.execNumbers a b colon s
  | .clear => Sys2Proof.Machine.execClear s
  | .raw segs => Sys2Proof.Machine.execRaw segs s
  | .start => Sys2Proof.Machine.execStart s
  | .stop => Sys2Proof.Machine.execStop s
  | .writeByte v => Sys2Proof.Machine.execWriteByte v s
  | .reservedOp0 => Sys2Proof.Machine.execReservedOp0 s
  | .reservedOpD => Sys2Proof.Machine.execReservedOpD s
  | .reservedOpE => Sys2Proof.Machine.execReservedOpE s
  | .reservedOpF => Sys2Proof.Machine.execReservedOpF s
  -- wire command bytes: the receiver executes
  | .dataCmdAuto => Sys2Proof.Machine.execDataCmdAuto s
  | .dataCmdFixed => Sys2Proof.Machine.execDataCmdFixed s
  | .addrCmd address => Sys2Proof.Machine.execAddrCmd address s
  | .ctrlCmd on brightness => Sys2Proof.Machine.execCtrlCmd on brightness s

end Sys2Proof.Machine
end

