-- ==== Sys2Proof/WellFormed.lean ====
section
/-! DEFINITION. Which instructions have an encoding. The one check the spec makes: addresses 6 and 7 "are not
encodable" (R73, R132). Every other operand may take every value of its field (R81). -/

namespace Sys2Proof

/-- The instruction has an encoding: an address command names one of the registers 0 to 5 (R73). -/
def Instr.wf : Instr → Bool
  | .addrCmd address => decide (address.toNat ≤ Config.addrMax)
  | .construct | .release | .brightness _ | .on | .off | .showText _ _ | .numbers _ _ _ | .clear | .raw _
  | .start | .stop | .writeByte _ | .reservedOp0 | .reservedOpD | .reservedOpE | .reservedOpF
  | .dataCmdAuto | .dataCmdFixed | .ctrlCmd _ _ => true

/-- The instruction is a wire command byte, executed by the receiver and not by the engine (R72 to R74). -/
def Instr.isWire : Instr → Bool
  | .dataCmdAuto | .dataCmdFixed | .addrCmd _ | .ctrlCmd _ _ => true
  | .construct | .release | .brightness _ | .on | .off | .showText _ _ | .numbers _ _ _ | .clear | .raw _
  | .start | .stop | .writeByte _ | .reservedOp0 | .reservedOpD | .reservedOpE | .reservedOpF => false

end Sys2Proof
end

