-- ==== Sys2Proof/Decode.lean ====
section
/-! DEFINITION. Decoding and encoding of the two formats of the opcode table: the 85-bit command word (R80 to R82) and
the wire command byte (R72 to R74), and the assembler notation of R85. -/

namespace Sys2Proof

/-- Why a code names no instruction. -/
inductive DecodeError
  /-- More than 85 bits presented as a command word (R80). -/
  | notACommandWord
  /-- More than 8 bits presented as a wire byte (R50). -/
  | notAWireByte
  /-- Bits [7:6] are 00: "never a command" (R72). -/
  | noCommandClass
  /-- A bit that the tables of R72 to R74 show as zero is set (R83). -/
  | reservedBitSet
  /-- An address command for register 6 or 7, "not encodable" (R73). -/
  | addressOutOfRange
deriving DecidableEq, Repr

/-- The code of an instruction: a command word on the command port, or a byte on the wire. -/
inductive Code
  | command (w : CommandWord)
  | wire (b : Byte)
deriving DecidableEq, Repr

/-- `op` field of R80. -/
def CommandWord.op (w : CommandWord) : BitVec 4 := w.extractLsb' 81 4
/-- `colon` field of R80. -/
def CommandWord.colon (w : CommandWord) : Bool := w.getLsbD 80
/-- `arg` field of R80. -/
def CommandWord.arg (w : CommandWord) : Byte := w.extractLsb' 72 8
/-- `len` field of R80. -/
def CommandWord.len (w : CommandWord) : Byte := w.extractLsb' 64 8
/-- `a` field of R80. -/
def CommandWord.a (w : CommandWord) : BitVec 16 := w.extractLsb' 48 16
/-- `b` field of R80. -/
def CommandWord.b (w : CommandWord) : BitVec 16 := w.extractLsb' 32 16
/-- `data` field of R80, as four elements. -/
def CommandWord.data (w : CommandWord) : Quad := Quad.ofBits (w.extractLsb' 0 32)

/-- The operation table of R80: every command word names an operation or a reserved `op` (R82); operands an operation
does not use are ignored (R81). -/
def decodeCommand (w : CommandWord) : Instr :=
  match w.op.toNat with
  | 0x1 => .construct
  | 0x2 => .release
  | 0x3 => .brightness (CommandWord.arg w)
  | 0x4 => .on
  | 0x5 => .off
  | 0x6 => .showText (CommandWord.len w) (CommandWord.data w)
  | 0x7 => .numbers (CommandWord.a w) (CommandWord.b w) (CommandWord.colon w)
  | 0x8 => .clear
  | 0x9 => .raw (CommandWord.data w)
  | 0xA => .start
  | 0xB => .stop
  | 0xC => .writeByte (CommandWord.arg w)
  | 0xD => .reservedOpD
  | 0xE => .reservedOpE
  | 0xF => .reservedOpF
  | _ => .reservedOp0

/-- A byte in command position: bits [7:6] say which command it is, `01` data, `11` address, `10` control, and `00` is
never a command (R72); the fields are those of R72, R73 and R74. -/
def decodeWire (v : Byte) : Except DecodeError Instr :=
  match (v.extractLsb' 6 2).toNat with
  | 1 =>
    if v = 0x40#8 then .ok .dataCmdAuto
    else if v = 0x44#8 then .ok .dataCmdFixed
    else .error .reservedBitSet
  | 3 =>
    if v.extractLsb' 3 3 = 0#3 then
      if (v.extractLsb' 0 3).toNat ≤ Config.addrMax then .ok (.addrCmd (v.extractLsb' 0 3))
      else .error .addressOutOfRange
    else .error .reservedBitSet
  | 2 =>
    if v.extractLsb' 4 2 = 0#2 then .ok (.ctrlCmd (v.getLsbD 3) (v.extractLsb' 0 3))
    else .error .reservedBitSet
  | _ => .error .noCommandClass

/-- Decode either format. -/
def decode : Code → Except DecodeError Instr
  | .command w => .ok (decodeCommand w)
  | .wire v => decodeWire v

/-- Read the number of a table row: eight bits are a wire byte, more are a command word (log entry 17). -/
def decodeNumber (nbits w : Nat) : Except DecodeError Instr :=
  if nbits ≤ 8 then
    if w < 2 ^ 8 then decodeWire (BitVec.ofNat 8 w) else .error .notAWireByte
  else if w < 2 ^ 85 then .ok (decodeCommand (BitVec.ofNat 85 w))
  else .error .notACommandWord

/-- The instruction the decoder reads from a row's bits, numbered as the opcode table numbers them. -/
def decodeTableWord (nbits w : Nat) : Option Instr :=
  match decodeNumber nbits w with
  | .ok i => some i
  | .error _ => none

/-- The command word of R80 with the given fields, each at the place of its lowest bit. -/
def commandWord (op : BitVec 4) (colon : Bool) (arg len : Byte) (a b : BitVec 16) (data : Quad) : CommandWord :=
  (op.setWidth 85 <<< 81) ||| ((BitVec.ofBool colon).setWidth 85 <<< 80) ||| (arg.setWidth 85 <<< 72) |||
    (len.setWidth 85 <<< 64) ||| (a.setWidth 85 <<< 48) ||| (b.setWidth 85 <<< 32) ||| data.toBits.setWidth 85

/-- Four zero bytes, for the `data` field of an operation that does not use it. -/
def Quad.zero : Quad := { b0 := 0#8, b1 := 0#8, b2 := 0#8, b3 := 0#8 }

/-- The word of an operation with no operand: every other field, ignored by R81, is zero. -/
def opWord (op : BitVec 4) : CommandWord := commandWord op false 0#8 0#8 0#16 0#16 Quad.zero

/-- The words of an instruction, from the tables of R80 and R72 to R74. Fields an operation ignores are zero. -/
def encode : Instr → Code
  | .construct => .command (opWord 0x1#4)
  | .release => .command (opWord 0x2#4)
  | .brightness level => .command (commandWord 0x3#4 false level 0#8 0#16 0#16 Quad.zero)
  | .on => .command (opWord 0x4#4)
  | .off => .command (opWord 0x5#4)
  | .showText len chars => .command (commandWord 0x6#4 false 0#8 len 0#16 0#16 chars)
  | .numbers a b colon => .command (commandWord 0x7#4 colon 0#8 0#8 a b Quad.zero)
  | .clear => .command (opWord 0x8#4)
  | .raw segs => .command (commandWord 0x9#4 false 0#8 0#8 0#16 0#16 segs)
  | .start => .command (opWord 0xA#4)
  | .stop => .command (opWord 0xB#4)
  | .writeByte v => .command (commandWord 0xC#4 false v 0#8 0#16 0#16 Quad.zero)
  | .reservedOp0 => .command (opWord 0x0#4)
  | .reservedOpD => .command (opWord 0xD#4)
  | .reservedOpE => .command (opWord 0xE#4)
  | .reservedOpF => .command (opWord 0xF#4)
  | .dataCmdAuto => .wire 0b01000000#8
  | .dataCmdFixed => .wire 0b01000100#8
  | .addrCmd address => .wire (0b11000#5 ++ address)
  | .ctrlCmd on brightness => .wire (0b1000#4 ++ (BitVec.ofBool on ++ brightness))

/-- One line of the assembly language of R85: D0's API notation. A text is the list of its character codes. -/
inductive Call
  | construct
  | release
  | brightness (n : Byte)
  | on
  | off
  | showText (text : List Byte)
  | numbers (a b : BitVec 16) (colon : Option Bool)
  | clear
  | raw (s0 s1 s2 s3 : Byte)
  | start
  | stop
  | writeByte (v : Byte)
deriving DecidableEq, Repr

/-- `data[i]` = code of character `i` for `i < min(len, NDIGITS)`, zero beyond (R85, R81). -/
def textQuad (text : List Byte) : Quad :=
  { b0 := text.getD 0 0#8, b1 := text.getD 1 0#8, b2 := text.getD 2 0#8, b3 := text.getD 3 0#8 }

/-- The instruction a line of assembly stands for (R85); `len` = min(length of text, 255), and `numbers(a, b)` has
`colon` = 0. -/
def assemble : Call → Instr
  | .construct => .construct
  | .release => .release
  | .brightness n => .brightness n
  | .on => .on
  | .off => .off
  | .showText text => .showText (BitVec.ofNat 8 (min text.length 255)) (textQuad text)
  | .numbers a b colon => .numbers a b (colon.getD false)
  | .clear => .clear
  | .raw s0 s1 s2 s3 => .raw { b0 := s0, b1 := s1, b2 := s2, b3 := s3 }
  | .start => .start
  | .stop => .stop
  | .writeByte v => .writeByte v

end Sys2Proof
end

