-- ==== Sys2Proof/Machine/Fetch.lean ====
section
/-! DEFINITION. What the next step is: a frame the receiver has to execute, else a reset, else the next phase of the
operation in progress, else the command at the port (R20, R24, R27, R58, R230). -/

namespace Sys2Proof.Machine

/-- The plan of a command word's instruction. A wire command byte is no command word and has none. -/
def planOf (i : Instr) (s : State) : Option Plan :=
  match i with
  | .construct => some (planConstruct s)
  | .release => some (planRelease s)
  | .brightness level => some (planBrightness Config.brightPolicy level s)
  | .on => some (planOn s)
  | .off => some (planOff s)
  | .showText len chars => some (planShow len chars s)
  | .numbers a b colon => some (planNumbers Config.padZero a b colon s)
  | .clear => some (planClear s)
  | .raw segs => some (planRaw segs s)
  | .start => some (planStart s)
  | .stop => some (planStop s)
  | .writeByte v => some (planWriteByte v s)
  | .reservedOp0 | .reservedOpD | .reservedOpE | .reservedOpF => some (planReserved s)
  | .dataCmdAuto | .dataCmdFixed | .addrCmd _ | .ctrlCmd _ _ => none

/-- Accept a command with the phase as the step (R20). -/
def State.launch (s : State) (i : Instr) : State :=
  match planOf i s with
  | some plan => plan.launch
  | none => s

/-- What a step does. -/
inductive Fetch
  /-- Execute an instruction in a state. -/
  | run (i : Instr) (s : State)
  /-- The step executes no instruction. -/
  | done (s : State)

/-- `rsp_valid` is 1 for exactly one step (R25): this step gives no response. -/
def State.tick (s : State) : State := { s with rspValid := false }

/-- The host's event has been taken. -/
def State.hostThen (s : State) (evs : List HostEvent) : State := { s with host := evs }

/-- A command is accepted: it leaves the port, its operands latched (R24, R32). -/
def State.accept (s : State) (evs : List HostEvent) : State := { s with host := evs, rspValid := false }

/-- A frame leaves the inbox, its data bytes in hand. The engine gives no response in this step (R25). -/
def State.takeFrame (s : State) (ds : List Byte) (fs : List (List Byte)) : State :=
  { s with rx := { s.rx with inbox := fs, args := ds }, rspValid := false }

/-- A frame R58 gives no other meaning makes the receiver's whole state unknown. -/
def State.spoiled (s : State) (fs : List (List Byte)) : State :=
  (s.takeFrame [] fs).received (s.takeFrame [] fs).rx.forget

/-- The receiver reads the first byte of a frame as a command (R58, R72). An empty frame, and one whose first byte is
no command, spoil the receiver's state. -/
def State.fetchFrame (s : State) (f : List Byte) (fs : List (List Byte)) : Fetch :=
  match f with
  | [] => .done (s.spoiled fs)
  | v :: ds =>
    match decodeWire v with
    | .ok i => .run i (s.takeFrame ds fs)
    | .error _ => .done (s.spoiled fs)

/-- The host's event or the operation in progress: a reset first (R230, R231); at REST the command at the port
(`cmd_ready` = 1, R24); during an operation its next phase, and no command is accepted (R170). -/
def State.fetchEvent (s : State) : Fetch :=
  match s.seq with
  | .rest =>
    match s.host with
    | [] => .done s.tick
    | .wait :: evs => .done (s.hostThen evs).tick
    | .reset :: evs => .done (s.hostThen evs).hwReset
    | .command w :: evs => .run (decodeCommand w) (s.accept evs)
    | .commandByPhase w :: evs => .done ((s.accept evs).launch (decodeCommand w))
  | .busy _ _ _ =>
    match s.host with
    | .wait :: evs => .done (s.hostThen evs).advance
    | .reset :: evs => .done (s.hostThen evs).hwReset
    | [] | .command _ :: _ | .commandByPhase _ :: _ => .done s.advance

/-- The next step: a complete frame is executed before anything else happens (log entry 6). -/
def State.fetch (s : State) : Fetch :=
  match s.rx.inbox with
  | f :: fs => s.fetchFrame f fs
  | [] => s.fetchEvent

/-- Place one instruction, given as the opcode table numbers its bits, where the next step takes it: a wire byte as a frame
of that one byte, first in the inbox; a command word first on the port, with no frame pending and no operation in progress
(log entry 17). -/
def State.placeWord (s : State) (nbits w : Nat) : State :=
  if nbits ≤ 8 then { s with rx := { s.rx with inbox := [BitVec.ofNat 8 w] :: s.rx.inbox } }
  else { s with
         seq := .rest
         rx := { s.rx with inbox := [] }
         host := .command (BitVec.ofNat 85 w) :: s.host }

end Sys2Proof.Machine
end

