-- ==== Sys2Proof/Machine/Step.lean ====
section
/-! DEFINITION. One step of the machine (R20). -/

namespace Sys2Proof.Machine

/-- Execute the instruction that is next, or take the step that needs none. -/
def step (s : State) : Host.Outcome State Fault Refusal :=
  match s.fetch with
  | .run i t => exec i t
  | .done t => .next t

/-- `s` with one instruction placed where the next step takes it. -/
def State.withFetchWord (s : State) (nbits w : Nat) : State := s.placeWord nbits w

end Sys2Proof.Machine
end

