-- ==== Sys2Proof/Machine/Ports.lean ====
section
/-! DEFINITION. The output ports (R23, R25) with their encodings (R26, R200): functions of the state. -/

namespace Sys2Proof.Machine

/-- `oe` of a line: 0 for `Z` (R23). -/
def Drive.oe : Drive → Bool
  | .z => false
  | .l | .h => true

/-- `out` of a line: 1 for `H`, 0 for `L`, and 0 when not driven (R23). -/
def Drive.out : Drive → Bool
  | .h => true
  | .l | .z => false

/-- The status codes of R200. -/
def Status.code : Status → BitVec 3
  | .ok => 0#3
  | .ackMissing => 1#3
  | .invalidBrightness => 2#3
  | .illegalState => 3#3
  | .illegalOp => 4#3
  | .acquisitionFailure => 5#3

/-- `sess_q` (R26): "value 3 never appears". -/
def Sess.code : Sess → BitVec 2
  | .uninit => 0#2
  | .idle => 1#2
  | .released => 2#2

/-- `bus_q` (R26). -/
def Bus.code : Bus → BitVec 1
  | .idle => 0#1
  | .frame => 1#1

/-- `rst_n` between two steps: the level the next step samples, low if and only if that step is a reset edge (R230). DESIGN CHOICE
(log entry 26): `rst_n` is an input, so its level stands in what the host does next and not in a register. -/
def State.rstN (s : State) : Bool :=
  match s.rx.inbox, s.host with
  | [], .reset :: _ => false
  | _, _ => true

/-- `cmd_ready`: 1 if and only if `seq = REST` and the engine is out of reset (R25); "0 while `rst_n` is low and 1 from the first edge
at which it is high" (R230). -/
def State.cmdReady (s : State) : Bool :=
  match s.seq with
  | .rest => s.rstN
  | .busy _ _ _ => false

/-- Every output port of R25. -/
structure Outputs where
  cmdReady : Bool
  rspValid : Bool
  rspStatus : BitVec 3
  rspAck : Bool
  clkOut : Bool
  clkOe : Bool
  dioOut : Bool
  dioOe : Bool
  ctlQ : BitVec 4
  bufQ : BitVec 32
  lastAckQ : Bool
  ackMissQ : Bool
  sessQ : BitVec 2
  busQ : BitVec 1
deriving DecidableEq, Repr

/-- The output ports between two steps (R25). DESIGN CHOICE (log entry 25): `buf[i]` stands at bits `8i+7:8i` of `buf_q`, as R24 orders
`cmd_data`; R25 gives `buf_q` its width only. -/
def State.outputs (s : State) : Outputs :=
  { cmdReady := s.cmdReady
    rspValid := s.rspValid
    rspStatus := s.rspStatus.code
    rspAck := s.rspAck
    clkOut := s.clkDrv.out
    clkOe := s.clkDrv.oe
    dioOut := s.dioDrv.out
    dioOe := s.dioDrv.oe
    ctlQ := s.ctl
    bufQ := s.buf.toBits
    lastAckQ := s.lastAck
    ackMissQ := s.ackMiss
    sessQ := s.sess.code
    busQ := s.bus.code }

/-- The ticks of `clk` for which the phases of a trace are held (R101, R253). -/
def holdTicks (tr : List Event) : Nat := (pairsOf tr).length * Config.tDelay

end Sys2Proof.Machine
end

