-- ==== Sys2Proof/Safety.lean ====
section
/-! DEFINITION. The terms claims are stated in: the invariants of R31, the line discipline of R111, the delay bounds of
R5, and the events the transport's rules write out. -/

namespace Sys2Proof.Machine

/-- The receiver stands inside a frame, at the start of a byte cell, and the lines are `(H, L)` if no byte has been sent in the
frame yet, `(L, L)` otherwise (R31(c)). -/
def State.inOpenFrame (s : State) : Prop :=
  (s.rx.scan = .inFrame [] [] ∧ s.clkDrv = .h ∧ s.dioDrv = .l) ∨
  (∃ v vs, s.rx.scan = .inFrame [] (v :: vs) ∧ s.clkDrv = .l ∧ s.dioDrv = .l)

/-- The invariants of R31 at an operation boundary, with the receiver's place beside them. -/
structure State.Boundary (s : State) : Prop where
  /-- R31(a): no session, no line held, no frame open. -/
  released : s.sess ≠ .idle → s.clkDrv = .z ∧ s.dioDrv = .z ∧ s.bus = .idle ∧ (s.rx.scan = .hunting ∨ s.rx.scan = .idle)
  /-- R31(b): both lines idle high. -/
  idleHigh : s.sess = .idle → s.bus = .idle → s.clkDrv = .h ∧ s.dioDrv = .h ∧ s.rx.scan = .idle
  /-- R31(c): a frame is open. -/
  openFrame : s.bus = .frame → s.sess = .idle ∧ s.inOpenFrame
  /-- R31(e): the trace starts at reset, and no sample precedes the one successful CONSTRUCT. -/
  sticky : s.ackMiss = false → ∀ x ∈ samplesOf s.trace, x = .low
  /-- Before CONSTRUCT nothing was sampled. -/
  fresh : s.sess = .uninit → samplesOf s.trace = []

/-- The machine's invariant: the state at the end of the operation in progress (the state itself at REST) meets R31, and the
display registers keep their canonical form. -/
def State.Inv (s : State) : Prop := s.complete.Boundary ∧ Memory.wf s.rx.mem = true

/-- The lines and the receiver's place are what the trace says (R59, R60): the scan of the trace's pairs, from lines that are not
driven and a receiver that waits for an idle pair, ends where the receiver stands. -/
def State.TraceTold (s : State) : Prop :=
  s.rx.scan = (extractFrom .hunting .z .z (pairsOf s.trace)).1 ∧
  (s.clkDrv, s.dioDrv) = ((pairsOf s.trace).getLast?).getD (.z, .z)

/-- One step of the lines keeps the discipline of R111(a), R111(b) and R101: at most one line changes, CLOCK is driven, and DATA
changes while CLOCK is low but for a start condition `H -> L` and a stop condition `L -> H`. -/
def disciplinedStep (c d c' d' : Drive) : Bool :=
  decide (c' ≠ .z) && (decide (c = c') || decide (d = d')) &&
    (decide (d = d') || decide (c' = .l) || isStart c d c' d' || isStop c d c' d')

/-- Every step of the lines, from the pair `(c, d)`, keeps the discipline. -/
def disciplined (c d : Drive) : List (Drive × Drive) → Bool
  | [] => true
  | (c', d') :: ps => disciplinedStep c d c' d' && disciplined c' d' ps

/-- How many steps of the lines, from the pair `(c, d)`, are of a kind. -/
def countSteps (kind : Drive → Drive → Drive → Drive → Bool) (c d : Drive) : List (Drive × Drive) → Nat
  | [] => 0
  | (c', d') :: ps => (if kind c d c' d' then 1 else 0) + countSteps kind c' d' ps

/-- A clock rise, as a kind of line step. -/
def riseStep (c _d c' _d' : Drive) : Bool := isRise c c'

/-- `T_DELAY / F_CLK` lies in about 5 to 50 microseconds (R5, R252). -/
def delayInRange : Prop :=
  5 * Config.fClk ≤ Config.tDelay * 1000000 ∧ Config.tDelay * 1000000 ≤ 50 * Config.fClk

/-- The level of a data bit on DATA (R8, R106). -/
def bitDrive (x : Bool) : Drive := if x then .h else .l

/-- The events of WRITEBYTE(v) (R106, R107) from lines whose DATA is at `d`, the sample reading `x`: in each bit cell CLOCK falls
with DATA as it was, DATA takes the bit, CLOCK rises; then the ACK cell. -/
def writeByteEvents (d : Drive) (v : Byte) (x : Level) : List Event :=
  [ .ph .l d, .ph .l (bitDrive (v.getLsbD 0)), .ph .h (bitDrive (v.getLsbD 0))
  , .ph .l (bitDrive (v.getLsbD 0)), .ph .l (bitDrive (v.getLsbD 1)), .ph .h (bitDrive (v.getLsbD 1))
  , .ph .l (bitDrive (v.getLsbD 1)), .ph .l (bitDrive (v.getLsbD 2)), .ph .h (bitDrive (v.getLsbD 2))
  , .ph .l (bitDrive (v.getLsbD 2)), .ph .l (bitDrive (v.getLsbD 3)), .ph .h (bitDrive (v.getLsbD 3))
  , .ph .l (bitDrive (v.getLsbD 3)), .ph .l (bitDrive (v.getLsbD 4)), .ph .h (bitDrive (v.getLsbD 4))
  , .ph .l (bitDrive (v.getLsbD 4)), .ph .l (bitDrive (v.getLsbD 5)), .ph .h (bitDrive (v.getLsbD 5))
  , .ph .l (bitDrive (v.getLsbD 5)), .ph .l (bitDrive (v.getLsbD 6)), .ph .h (bitDrive (v.getLsbD 6))
  , .ph .l (bitDrive (v.getLsbD 6)), .ph .l (bitDrive (v.getLsbD 7)), .ph .h (bitDrive (v.getLsbD 7))
  , .ph .l (bitDrive (v.getLsbD 7)), .ph .l .z, .ph .h .z, .smp x, .ph .l .z, .ph .l .l ]

/-- The events of the byte cells of a frame whose samples read the given levels (R107): every cell begins and ends with DATA
driven low. -/
def bytesEvents : List Byte → List Level → List Event
  | v :: vs, x :: xs => writeByteEvents .l v x ++ bytesEvents vs xs
  | _, _ => []

/-- The events of a frame from idle lines (R105, R107, R110): the start condition, the byte cells, STOP's four phases. -/
def frameEvents (bytes : List Byte) (xs : List Level) : List Event :=
  [.ph .h .l] ++ (bytesEvents bytes xs ++ [.ph .l .l, .ph .l .l, .ph .h .l, .ph .h .h])

/-- The levels the next `n` ACK samples read (R104). -/
def Env.levels : Nat → Env → List Level
  | 0, _ => []
  | n + 1, e => e.dioIn :: Env.levels n e.afterDio

/-- The environment after `n` ACK samples. -/
def Env.afterDios : Nat → Env → Env
  | 0, e => e
  | n + 1, e => Env.afterDios n e.afterDio

/-- `last_ack` after samples of these levels, from a value before them (R28). -/
def ackAfter (before : Bool) (xs : List Level) : Bool :=
  match xs.getLast? with
  | none => before
  | some x => ackOf x

/-- The events of frames one after another, each frame's samples read in turn from the environment (R61). -/
def framesEvents : List (List Byte) → Env → List Event
  | [], _ => []
  | f :: fs, e => frameEvents f (e.levels f.length) ++ framesEvents fs (e.afterDios f.length)

/-- Only the response has changed: the condition's code, `rsp_ack` 1, `rsp_valid`, and `seq` at REST (R200, R204). -/
def State.answered (s : State) (condition : Status) : State :=
  { s with rspStatus := condition, rspAck := true, rspValid := true, seq := .rest }

/-- The state after an operation that sent these frames from idle lines and changed nothing else: one ACK sample a byte, the flags
and the response of R28, R107 and R183, the events of the frames, and the frames at the receiver. -/
def State.sentFrames (s : State) (frames : List (List Byte)) : State :=
  { s with
    lastAck := ackAfter s.lastAck (s.env.levels frames.flatten.length)
    ackMiss := s.ackMiss || !allAcked (s.env.levels frames.flatten.length)
    samples := s.env.levels frames.flatten.length
    env := s.env.afterDios frames.flatten.length
    trace := s.trace ++ framesEvents frames s.env
    rx := { s.rx with inbox := s.rx.inbox ++ frames }
    rspStatus := if allAcked (s.env.levels frames.flatten.length) then .ok else .ackMissing
    rspAck := allAcked (s.env.levels frames.flatten.length)
    rspValid := true
    seq := .rest }

/-- The three frames of a display write (R77, R178), written out. -/
def displayFrames (buf : Quad) (ctl : BitVec 4) : List (List Byte) :=
  [[0x40#8], [0xC0#8, buf.b0, buf.b1, buf.b2, buf.b3], [0x80#8 ||| ctl.setWidth 8]]

/-- The buffer a display operation writes, and nothing for any other instruction (R179 to R182). -/
def displayBuffer : Instr → Option Quad
  | .showText len chars => some (fmtText len chars)
  | .numbers a b colon => some (fmtPair Config.padZero a b colon)
  | .clear => some blankQuad
  | .raw segs => some segs
  | .construct | .release | .brightness _ | .on | .off | .start | .stop | .writeByte _ | .reservedOp0 | .reservedOpD
  | .reservedOpE | .reservedOpF | .dataCmdAuto | .dataCmdFixed | .addrCmd _ | .ctrlCmd _ _ => none

/-- The value of `ctl` a control operation writes, and nothing for any other instruction (R174 to R176). -/
def controlValue (ctl : BitVec 4) : Instr → Option (BitVec 4)
  | .brightness level => some ((ctl &&& 0x8#4) ||| BitVec.ofNat 4 (min level.toNat 7))
  | .on => some (ctl ||| 0x8#4)
  | .off => some (ctl &&& 0x7#4)
  | .construct | .release | .showText _ _ | .numbers _ _ _ | .clear | .raw _ | .start | .stop | .writeByte _ | .reservedOp0
  | .reservedOpD | .reservedOpE | .reservedOpF | .dataCmdAuto | .dataCmdFixed | .addrCmd _ | .ctrlCmd _ _ => none

/-- The letters of R144's table, upper case, with their patterns. -/
def letterRows : List (Byte × Byte) :=
    [(0x41#8, 0x77#8), (0x42#8, 0x7C#8), (0x43#8, 0x39#8), (0x44#8, 0x5E#8), (0x45#8, 0x79#8),
     (0x46#8, 0x71#8), (0x47#8, 0x3D#8), (0x48#8, 0x76#8), (0x49#8, 0x06#8), (0x4A#8, 0x1E#8),
     (0x4C#8, 0x38#8), (0x4E#8, 0x54#8), (0x4F#8, 0x3F#8), (0x50#8, 0x73#8), (0x52#8, 0x50#8),
     (0x53#8, 0x6D#8), (0x54#8, 0x78#8), (0x55#8, 0x3E#8), (0x59#8, 0x6E#8)]

/-- Execute instructions one after another, from a state, with nothing between them; stops at a fault or a refusal. -/
def execAll : List Instr → State → Host.Outcome State Fault Refusal
  | [], s => .next s
  | i :: is, s =>
    match exec i s with
    | .next t => execAll is t
    | .fault r => .fault r
    | .refused r => .refused r

/-- A frame by hand: START, one WRITEBYTE for each byte, STOP (R59, R245). -/
def handFrame (bytes : List Byte) : List Instr := .start :: (bytes.map .writeByte ++ [.stop])

/-- `n` phases of the operation in progress, one by one. -/
def State.advances : Nat → State → State
  | 0, s => s
  | n + 1, s => State.advances n s.advance

/-- How many phases an instruction's operation has from a state (R100, R171): 0 where it is refused or fails. -/
def phaseCount (i : Instr) (s : State) : Nat :=
  match planOf i s with
  | some (.run _ phases _) => phases.length
  | some (.reply _ _) | none => 0

/-- The receiver executes one frame (R58). -/
def Receiver.frame (rx : Receiver) (f : List Byte) : Receiver :=
  match f with
  | [] => rx.forget.done
  | v :: ds =>
    match decodeWire v with
    | .ok .dataCmdAuto => (({ rx with args := ds } : Receiver).dataCommand .auto).done
    | .ok .dataCmdFixed => (({ rx with args := ds } : Receiver).dataCommand .fixed).done
    | .ok (.addrCmd a) => (({ rx with args := ds } : Receiver).addrCommand a.toNat).done
    | .ok (.ctrlCmd on bright) => (({ rx with args := ds } : Receiver).ctrlCommand on bright).done
    | .ok _ | .error _ => rx.forget.done

/-- The receiver executes frames in order. -/
def Receiver.frames (rx : Receiver) (fs : List (List Byte)) : Receiver := fs.foldl Receiver.frame rx

end Sys2Proof.Machine
end

