-- ==== Sys2Proof/Certificates/Slice0/Obligations.lean ====
section
/-! DEFINITION. The statements for the provers. Each docstring names the rules of spec/ it formalises. -/

open Sys2Proof Sys2Proof.Machine

/-! ### Encoding -/

/-- R72, R73, R74, R80: decoding the words of a well-formed instruction gives it back, every operand at every value. -/
def Obligations.DecodeEncode : Prop :=
  ∀ i : Instr, i.wf = true → decode (encode i) = .ok i

/-- R72 to R74: a wire byte that decodes is the one encoding of what it decodes to, which is well formed and a wire command. -/
def Obligations.EncodeDecodeWire : Prop :=
  ∀ (v : Byte) (i : Instr), decodeWire v = .ok i → encode i = .wire v ∧ i.wf = true ∧ i.isWire = true

/-- R81, R80, R82: the operation is chosen by `op` alone and reads the operands it uses, whatever the other fields hold. -/
def Obligations.UnusedOperandsIgnored : Prop :=
  ∀ (colon : Bool) (arg len : Byte) (a b : BitVec 16) (data : Quad),
    decodeCommand (commandWord 0x0#4 colon arg len a b data) = .reservedOp0 ∧
    decodeCommand (commandWord 0x1#4 colon arg len a b data) = .construct ∧
    decodeCommand (commandWord 0x2#4 colon arg len a b data) = .release ∧
    decodeCommand (commandWord 0x3#4 colon arg len a b data) = .brightness arg ∧
    decodeCommand (commandWord 0x4#4 colon arg len a b data) = .on ∧
    decodeCommand (commandWord 0x5#4 colon arg len a b data) = .off ∧
    decodeCommand (commandWord 0x6#4 colon arg len a b data) = .showText len data ∧
    decodeCommand (commandWord 0x7#4 colon arg len a b data) = .numbers a b colon ∧
    decodeCommand (commandWord 0x8#4 colon arg len a b data) = .clear ∧
    decodeCommand (commandWord 0x9#4 colon arg len a b data) = .raw data ∧
    decodeCommand (commandWord 0xA#4 colon arg len a b data) = .start ∧
    decodeCommand (commandWord 0xB#4 colon arg len a b data) = .stop ∧
    decodeCommand (commandWord 0xC#4 colon arg len a b data) = .writeByte arg ∧
    decodeCommand (commandWord 0xD#4 colon arg len a b data) = .reservedOpD ∧
    decodeCommand (commandWord 0xE#4 colon arg len a b data) = .reservedOpE ∧
    decodeCommand (commandWord 0xF#4 colon arg len a b data) = .reservedOpF

/-- R80, R82, R72 to R74: words written out from the tables decode to what they stand for (a sanity statement).
That 88 bits are a command word and 8 bits a wire byte is the model's choice (log entry 17). -/
def Obligations.WrittenWordsDecode : Prop :=
  decodeTableWord 88 0x200000000000000000000 = some .construct ∧
  decodeTableWord 88 0x607000000000000000000 = some (.brightness 7#8) ∧
  decodeTableWord 88 0xC00040000000054534554 = some (.showText 4#8 ⟨0x54#8, 0x45#8, 0x53#8, 0x54#8⟩) ∧
  decodeTableWord 88 0xF0000000C002200000000 = some (.numbers 12#16 34#16 true) ∧
  decodeTableWord 88 0x12000000000000664FDB06 = some (.raw ⟨0x06#8, 0xDB#8, 0x4F#8, 0x66#8⟩) ∧
  decodeTableWord 88 0x183F000000000000000000 = some (.writeByte 0x3F#8) ∧
  decodeTableWord 88 0x1E00000000000000000000 = some .reservedOpF ∧
  decodeTableWord 8 0x40 = some .dataCmdAuto ∧
  decodeTableWord 8 0x44 = some .dataCmdFixed ∧
  decodeTableWord 8 0xC5 = some (.addrCmd 5#3) ∧
  decodeTableWord 8 0xC6 = none ∧
  decodeTableWord 8 0x8D = some (.ctrlCmd true 5#3)

/-- R85: each line of assembly stands for the command word of the table's row: its `op`, and the operand fields the row names.
The word decodes to the instruction the line stands for.
A text as the list of its codes, and an element beyond it as zero, are the model's choice (log entry 21). -/
def Obligations.AssembledCallsDecode : Prop :=
  ∀ c : Call, ∃ w : CommandWord, encode (assemble c) = .command w ∧ decodeCommand w = assemble c ∧
    match c with
    | .construct => w.op = 0x1#4
    | .release => w.op = 0x2#4
    | .brightness n => w.op = 0x3#4 ∧ w.arg = n
    | .on => w.op = 0x4#4
    | .off => w.op = 0x5#4
    | .showText text => w.op = 0x6#4 ∧ w.len.toNat = min text.length 255 ∧
        ∀ i : Nat, i < min w.len.toNat 4 → w.data.toList[i]? = text[i]?
    | .numbers a b colon => w.op = 0x7#4 ∧ w.a = a ∧ w.b = b ∧ (w.colon = true ↔ colon = some true)
    | .clear => w.op = 0x8#4
    | .raw s0 s1 s2 s3 => w.op = 0x9#4 ∧ w.data = ⟨s0, s1, s2, s3⟩
    | .start => w.op = 0xA#4
    | .stop => w.op = 0xB#4
    | .writeByte v => w.op = 0xC#4 ∧ w.arg = v

/-! ### The pure functions: encoders, ROMs, formatting -/

/-- R131, R132, R133: the three command bytes, as ORs into their bases and as the values the tables print, and no value for the
addresses 6 and 7. -/
def Obligations.CommandBytes : Prop :=
  encData .auto = 0x40#8 ∧ encData .fixed = 0x44#8 ∧
  (∀ a : BitVec 3, a.toNat ≤ 5 → encAddr a = some (0xC0#8 ||| a.setWidth 8) ∧ encAddr a = some (0xC0#8 + a.setWidth 8)) ∧
  encAddr 6#3 = none ∧ encAddr 7#3 = none ∧
  (∀ (on : Bool) (b : BitVec 3), encCtrl on b = 0x80#8 ||| (if on then 0x08#8 else 0x00#8) ||| b.setWidth 8) ∧
  (∀ b : BitVec 3, encCtrl false b = 0x80#8 + b.setWidth 8 ∧ encCtrl true b = 0x88#8 + b.setWidth 8) ∧
  (∀ ctl : BitVec 4, encCtrl (ctlOn ctl) (ctlBright ctl) = 0x80#8 ||| ctl.setWidth 8)

/-- R134: the images of the three encoders are disjoint by bits [7:6], two of them are injective, and no command byte is below 0x40. -/
def Obligations.CommandBytesTellCommands : Prop :=
  (∀ m : AddrMode, (encData m).extractLsb' 6 2 = 0b01#2) ∧
  (∀ (a : BitVec 3) (v : Byte), encAddr a = some v → v.extractLsb' 6 2 = 0b11#2) ∧
  (∀ (on : Bool) (b : BitVec 3), (encCtrl on b).extractLsb' 6 2 = 0b10#2) ∧
  (∀ (a a' : BitVec 3) (v : Byte), encAddr a = some v → encAddr a' = some v → a = a') ∧
  (∀ (on on' : Bool) (b b' : BitVec 3), encCtrl on b = encCtrl on' b' → on = on' ∧ b = b') ∧
  (∀ (m : AddrMode) (on : Bool) (b a : BitVec 3) (v : Byte), v = encData m ∨ some v = encAddr a ∨ v = encCtrl on b → 0x3F#8 < v)

/-- R141, R143, R144: the two ROMs. The digit patterns; for every code bit 7 clear; the digits' codes agree with the digit ROM; '-' and each
letter in either case have the pattern of the table; every other code, the space, 'M' and 'W' among them, is blank.
The patterns are general knowledge in the spec itself (log entry 11). -/
def Obligations.RomContents : Prop :=
  [romDigit 0, romDigit 1, romDigit 2, romDigit 3, romDigit 4, romDigit 5, romDigit 6, romDigit 7, romDigit 8, romDigit 9]
    = [0x3F#8, 0x06#8, 0x5B#8, 0x4F#8, 0x66#8, 0x6D#8, 0x7D#8, 0x07#8, 0x7F#8, 0x6F#8] ∧
  (∀ d : Fin 10, (romDigit d).getLsbD 7 = false ∧ romChar (0x30#8 + BitVec.ofNat 8 d.val) = romDigit d) ∧
  (∀ c : Byte, (romChar c).getLsbD 7 = false) ∧
  romChar 0x20#8 = 0x00#8 ∧ romChar 0x2D#8 = 0x40#8 ∧ romChar 0x4D#8 = 0x00#8 ∧ romChar 0x57#8 = 0x00#8 ∧
  (∀ row ∈ letterRows, romChar row.1 = row.2 ∧ romChar (row.1 + 0x20#8) = row.2) ∧
  (∀ c : Byte, romChar c ≠ 0x00#8 →
    c = 0x2D#8 ∨ (0x30#8 ≤ c ∧ c ≤ 0x39#8) ∨ c ∈ letterRows.map (·.1) ∨ c - 0x20#8 ∈ letterRows.map (·.1))

/-- R145: the defining equations of `digits10`; its digits read back as a decimal number are the number; a number of several
digits has no leading zero; a 16-bit number has 1 to 5 digits. -/
def Obligations.DecimalDigits : Prop :=
  (∀ n : Nat, n < 10 → digits10 n = [Fin.ofNat 10 n]) ∧
  (∀ n : Nat, 10 ≤ n → digits10 n = digits10 (n / 10) ++ [Fin.ofNat 10 n]) ∧
  (∀ n : Nat, (digits10 n).foldl (fun acc d => 10 * acc + d.val) 0 = n) ∧
  (∀ (n : Nat) (d : Fin 10) (ds : List (Fin 10)), 10 ≤ n → digits10 n = d :: ds → d ≠ 0) ∧
  (∀ n : BitVec 16, 1 ≤ (digits10 n.toNat).length ∧ (digits10 n.toNat).length ≤ 5)

/-- R146: exactly `w` glyphs; a number with `w` or more digits keeps its leftmost `w`, a shorter one is padded on the left with the
digit '0' or with blanks. -/
def Obligations.NumberField : Prop :=
  ∀ (n w : Nat) (pz : Bool),
    (fmtNumber n w pz).length = w ∧
    (w ≤ (digits10 n).length → fmtNumber n w pz = ((digits10 n).map romDigit).take w) ∧
    ((digits10 n).length < w →
      fmtNumber n w pz
        = List.replicate (w - (digits10 n).length) (if pz then 0x3F#8 else 0x00#8) ++ (digits10 n).map romDigit)

/-- R150 for numbers of at most two digits: tens and units of each number, and the separator on the second digit. -/
def Obligations.PairOfTwoDigitNumbers : Prop :=
  ∀ (a b : BitVec 16) (colon : Bool), a.toNat < 100 → b.toNat < 100 →
    fmtPair true a b colon =
      { b0 := romDigit (Fin.ofNat 10 (a.toNat / 10))
        b1 := romDigit (Fin.ofNat 10 a.toNat) ||| (if colon then 0x80#8 else 0x00#8)
        b2 := romDigit (Fin.ofNat 10 (b.toNat / 10))
        b3 := romDigit (Fin.ofNat 10 b.toNat) }

/-! ### The step: who moves next, and what it executes -/

/-- A step runs the decoded command word at the port, when no frame waits and no operation runs (R24, R80): the word leaves the
port, and `rsp_valid` falls (R25).
That a waiting frame comes first is the model's choice (log entry 6), and so is the list of host events (log entry 3). -/
def Obligations.StepRunsCommand : Prop :=
  ∀ (s : State) (w : CommandWord) (evs : List HostEvent),
    s.rx.inbox = [] → s.seq = .rest → s.host = .command w :: evs →
    step s = exec (decodeCommand w) { s with host := evs, rspValid := false }

/-- A step runs the decoded command byte of the oldest frame the receiver holds (R58, R72): the frame leaves the inbox, its data
bytes in hand, and `rsp_valid` falls, since the step ends no operation (R25).
That the receiver executes it in a step of its own is the model's choice (log entries 1, 5, 6, 19). -/
def Obligations.StepRunsFrame : Prop :=
  ∀ (s : State) (v : Byte) (ds : List Byte) (fs : List (List Byte)) (i : Instr),
    s.rx.inbox = (v :: ds) :: fs → decodeWire v = .ok i →
    step s = exec i { s with rx := { s.rx with inbox := fs, args := ds }, rspValid := false }

/-- R58: a frame with no byte, and one whose first byte is no command, make the receiver's whole state unknown; `rsp_valid` falls (R25).
The step it takes is the model's choice (log entries 5, 6). -/
def Obligations.StepSpoilsUnknownFrame : Prop :=
  ∀ (s : State) (f : List Byte) (fs : List (List Byte)),
    s.rx.inbox = f :: fs → (∀ v ds, f = v :: ds → ∃ e, decodeWire v = .error e) →
    step s = .next { s with
      rx := { s.rx with inbox := fs, args := [], mode := none, mem := [], on := none, bright := none }
      rspValid := false }

/-- R58, R25: whatever the oldest frame is, the step is the receiver's execution of that frame; nothing else changes but `rsp_valid`,
which falls.
That the receiver executes it in a step of its own is the model's choice (log entries 1, 5, 6). -/
def Obligations.StepExecutesFrame : Prop :=
  ∀ (s : State) (f : List Byte) (fs : List (List Byte)), s.rx.inbox = f :: fs →
    step s = .next { s with rx := ({ s.rx with inbox := fs } : Receiver).frame f, rspValid := false }

/-- R25: with nothing at the port a step changes nothing but `rsp_valid`, which is 1 for one step only, and the host's wait.
The list of host events and the step as the one tick are the model's choice (log entries 3, 5). -/
def Obligations.StepWaitsForCommand : Prop :=
  (∀ (s : State), s.rx.inbox = [] → s.seq = .rest → s.host = [] → step s = .next { s with rspValid := false }) ∧
  (∀ (s : State) (evs : List HostEvent), s.rx.inbox = [] → s.seq = .rest → s.host = .wait :: evs →
    step s = .next { s with host := evs, rspValid := false })

/-- R20, R27, R170: a command taken phase by phase is launched by one step; while an operation runs, and whatever the host does but
a reset, the next step is one phase of it, and a command at the port is not accepted; a phase adds one line pair to the trace and
moves the sequencer to the next phase, or to REST after the last.
How the host chooses the grain, that a command waits at the port, and that a `wait` passes with the phase are the model's choice
(log entries 2, 3, 23). -/
def Obligations.StepAdvancesOnePhase : Prop :=
  (∀ (s : State) (w : CommandWord) (evs : List HostEvent),
    s.rx.inbox = [] → s.seq = .rest → s.host = .commandByPhase w :: evs →
    step s = .next (({ s with host := evs, rspValid := false } : State).launch (decodeCommand w))) ∧
  (∀ (s : State) (p : Phase) (ps : List Phase) (fin : Finish), s.rx.inbox = [] → s.seq = .busy p ps fin →
    (s.host = [] → step s = .next s.advance) ∧
    (∀ evs : List HostEvent, s.host = .wait :: evs → step s = .next ({ s with host := evs } : State).advance) ∧
    (∀ (w : CommandWord) (evs : List HostEvent), s.host = .command w :: evs ∨ s.host = .commandByPhase w :: evs →
      step s = .next s.advance)) ∧
  (∀ (s : State) (p : Phase) (ps : List Phase) (fin : Finish), s.seq = .busy p ps fin →
    s.advance.host = s.host ∧ (ps = [] → s.advance.seq = .rest) ∧ (∀ q qs, ps = q :: qs → s.advance.seq = .busy q qs fin) ∧
    ∃ seg, s.advance.trace = s.trace ++ seg ∧ (pairsOf seg).length = 1)

/-- R33 (V24): what reset leaves in the engine's registers, and what a successful CONSTRUCT leaves in the same registers; `cmd_ready` is 1
once `rst_n` is high (R25, R230), and the receiver knows nothing, as at its power-up (R58).
That `cmd_ready` is 1 at `State.reset` rests on the model's choice that the host's next event says what `rst_n` is (log entries 3, 26);
that the state after reset has the receiver of power-up, of which R33 says "unspecified" only, is the model's choice too (log entry 7). -/
def Obligations.ResetValues : Prop :=
  State.reset.sess = .uninit ∧ State.reset.bus = .idle ∧ State.reset.seq = .rest ∧ State.reset.clkDrv = .z ∧
  State.reset.dioDrv = .z ∧ State.reset.ctl = 0#4 ∧ State.reset.buf = ⟨0x00#8, 0x00#8, 0x00#8, 0x00#8⟩ ∧
  State.reset.lastAck = true ∧ State.reset.ackMiss = false ∧ State.reset.rspStatus = .ok ∧ State.reset.rspAck = true ∧
  State.reset.rspValid = false ∧ State.reset.cmdReady = true ∧
  State.reset.rx.mode = none ∧ (∀ a, Memory.read State.reset.rx.mem a = none) ∧ State.reset.rx.on = none ∧
  State.reset.rx.bright = none ∧
  (∀ s t : State, s.sess = .uninit → s.env.acqOk = true → exec .construct s = .next t →
    t.sess = .idle ∧ t.bus = .idle ∧ t.seq = .rest ∧ t.clkDrv = .h ∧ t.dioDrv = .h ∧ t.ctl = 0#4 ∧
    t.buf = ⟨0x00#8, 0x00#8, 0x00#8, 0x00#8⟩ ∧ t.lastAck = true ∧ t.ackMiss = false ∧ t.rspStatus = .ok ∧ t.rspAck = true ∧
    t.rspValid = true)

/-- R230: a reset edge gives every register of the engine its reset value, whatever was in progress; the chip is not reset: at
REST with no frame open its registers stay (R33).
With a frame open at REST the chip is unknown by the model's choice (log entry 7). -/
def Obligations.StepResets : Prop :=
  ∀ (s : State) (evs : List HostEvent), s.rx.inbox = [] → s.host = .reset :: evs →
    step s = .next { State.reset with
      env := s.env
      host := evs
      rx := if s.seq = .rest ∧ s.bus = .idle then { s.rx with scan := .hunting } else Receiver.powerUp }

/-- R231: a reset while an operation runs gives no response, leaves the lines undriven and the trace ended, and the chip's state
unknown.
That the trace starts anew is the model's choice (log entry 7). -/
def Obligations.ResetAbandonsOperation : Prop :=
  ∀ (s : State) (p : Phase) (ps : List Phase) (fin : Finish) (evs : List HostEvent),
    s.rx.inbox = [] → s.seq = .busy p ps fin → s.host = .reset :: evs →
    ∃ t, step s = .next t ∧ t.seq = .rest ∧ t.rspValid = false ∧ t.clkDrv = .z ∧ t.dioDrv = .z ∧ t.trace = [] ∧
      t.sess = .uninit ∧ t.rx.mode = none ∧ (∀ a, Memory.read t.rx.mem a = none) ∧ t.rx.on = none ∧ t.rx.bright = none

/-- R10, R208: every step answers a next state; nothing traps, hangs or is left undefined.
That a refused command is no refusal of the model is log entry 16. -/
def Obligations.StepAlwaysAnswers : Prop :=
  ∀ s : State, ∃ t, step s = .next t

/-! ### Invariants -/

/-- The invariants hold at reset (R31, R33, R59, R60).
That the trace is empty and the receiver waits for an idle pair then is the model's choice (log entries 7, 24). -/
def Obligations.InvariantAtReset : Prop :=
  State.reset.Inv ∧ State.reset.TraceTold

/-- R31 (a), (b), (c), (e): every step keeps the boundary invariants, of the state in which the operation in progress ends, and the
canonical form of the display registers. -/
def Obligations.StepKeepsInvariant : Prop :=
  ∀ s t : State, s.Inv → step s = .next t → t.Inv

/-- Every step keeps the canonical form of the display registers, in states no run reaches too (R50, R58). -/
def Obligations.StepKeepsDisplayMemory : Prop :=
  ∀ s t : State, Memory.wf s.rx.mem = true → step s = .next t → Memory.wf t.rx.mem = true

/-- R59, R60: every step keeps the receiver's place and the lines what the trace says they are.
The trace as a field of State is the model's choice (log entry 24). -/
def Obligations.StepKeepsTraceTold : Prop :=
  ∀ s t : State, s.TraceTold → step s = .next t → t.TraceTold

/-- R20: the operation as one step and the operation phase by phase give the same end state, the trace in it.
That the machine has both grains, and when an operation run by phases writes its registers, are the model's choice (log entries 2, 23). -/
def Obligations.PhasesAgreeWithOperation : Prop :=
  ∀ (i : Instr) (s : State), i.isWire = false → exec i s = .next ((s.launch i).advances (phaseCount i s))

/-! ### The transport -/

/-- R105: START. Its word, its effect on an idle bus, and ILLEGAL_STATE elsewhere.
The fields `samples`, `env` and `rx` are the model's own form of R183's results, of the draws and of the receiver (log entries 1, 4, 18). -/
def Obligations.StartOpensFrame : Prop :=
  (∀ w : CommandWord, w.op = 0xA#4 → decodeCommand w = .start) ∧
  (∀ s : State, s.Boundary → s.sess = .idle → s.bus = .idle →
    exec .start s = .next (({ s with
      dioDrv := .l
      bus := .frame
      samples := []
      trace := s.trace ++ [.ph .h .l]
      rx := { s.rx with scan := .inFrame [] [] } } : State).answered .ok)) ∧
  (∀ s : State, ¬ (s.sess = .idle ∧ s.bus = .idle) → exec .start s = .next (s.answered .illegalState))

/-- R107: WRITEBYTE. Its word; in an open frame 29 phases and one sample, the two flags, the response, and the byte at the receiver;
ILLEGAL_STATE elsewhere.
The fields `samples`, `env` and `rx` are the model's own form of R183's results, of the draws and of the receiver (log entries 1, 4, 18). -/
def Obligations.WriteByteSends : Prop :=
  (∀ w : CommandWord, w.op = 0xC#4 → decodeCommand w = .writeByte w.arg) ∧
  (∀ (s : State) (v : Byte) (bytes : List Byte), s.Boundary → s.bus = .frame → s.rx.scan = .inFrame [] bytes →
    exec (.writeByte v) s = .next { s with
      clkDrv := .l
      dioDrv := .l
      lastAck := decide (s.env.dioIn = .low)
      ackMiss := s.ackMiss || decide (s.env.dioIn = .high)
      samples := [s.env.dioIn]
      env := s.env.afterDio
      trace := s.trace ++ writeByteEvents .l v s.env.dioIn
      rx := { s.rx with scan := .inFrame [] (bytes ++ [v]) }
      rspStatus := if s.env.dioIn = .low then .ok else .ackMissing
      rspAck := decide (s.env.dioIn = .low)
      rspValid := true
      seq := .rest }) ∧
  (∀ (v : Byte) (x : Level), (pairsOf (writeByteEvents .l v x)).length = 29 ∧ samplesOf (writeByteEvents .l v x) = [x]) ∧
  (∀ (s : State) (v : Byte), ¬ (s.sess = .idle ∧ s.bus = .frame) → exec (.writeByte v) s = .next (s.answered .illegalState))

/-- R110: STOP. Its word; in an open frame the four phases, the lines idle high, the frame at the receiver; ILLEGAL_STATE elsewhere.
The fields `samples`, `env` and `rx` are the model's own form of R183's results, of the draws and of the receiver (log entries 1, 4, 18). -/
def Obligations.StopClosesFrame : Prop :=
  (∀ w : CommandWord, w.op = 0xB#4 → decodeCommand w = .stop) ∧
  (∀ (s : State) (bytes : List Byte), s.Boundary → s.bus = .frame → s.rx.scan = .inFrame [] bytes →
    exec .stop s = .next (({ s with
      clkDrv := .h
      dioDrv := .h
      bus := .idle
      samples := []
      trace := s.trace ++ [.ph .l .l, .ph .l .l, .ph .h .l, .ph .h .h]
      rx := { s.rx with scan := .idle, inbox := s.rx.inbox ++ [bytes] } } : State).answered .ok)) ∧
  (∀ s : State, ¬ (s.sess = .idle ∧ s.bus = .frame) → exec .stop s = .next (s.answered .illegalState))

/-- R204, R82, R207: ILLEGAL_OP for the reserved `op` values in every state; ILLEGAL_STATE for every other operation whose `require` line
is false, whatever its operands, the policy and `acq_ok`; a refused operation changes no register but the response, drives no
line and emits no event. -/
def Obligations.Refusals : Prop :=
  (∀ s : State,
    exec .reservedOp0 s = .next (s.answered .illegalOp) ∧ exec .reservedOpD s = .next (s.answered .illegalOp) ∧
    exec .reservedOpE s = .next (s.answered .illegalOp) ∧ exec .reservedOpF s = .next (s.answered .illegalOp)) ∧
  (∀ s : State, s.sess ≠ .uninit → exec .construct s = .next (s.answered .illegalState)) ∧
  (∀ s : State, ¬ (s.sess = .idle ∧ s.bus = .idle) →
    exec .release s = .next (s.answered .illegalState) ∧
    (∀ level, exec (.brightness level) s = .next (s.answered .illegalState)) ∧
    (∀ policy level, (planBrightness policy level s).perform = s.answered .illegalState) ∧
    exec .on s = .next (s.answered .illegalState) ∧
    exec .off s = .next (s.answered .illegalState) ∧
    (∀ len chars, exec (.showText len chars) s = .next (s.answered .illegalState)) ∧
    (∀ a b colon, exec (.numbers a b colon) s = .next (s.answered .illegalState)) ∧
    exec .clear s = .next (s.answered .illegalState) ∧
    (∀ segs, exec (.raw segs) s = .next (s.answered .illegalState)) ∧
    exec .start s = .next (s.answered .illegalState)) ∧
  (∀ (s : State) (v : Byte), ¬ (s.sess = .idle ∧ s.bus = .frame) →
    exec (.writeByte v) s = .next (s.answered .illegalState) ∧ exec .stop s = .next (s.answered .illegalState))

/-- R59: from idle, a frame sent by hand extracts to exactly one frame of its bytes, whatever the samples were; the receiver gets that
frame, and the lines are idle again.
That the frame then waits in the receiver's inbox, not executed yet, is the model's choice (log entry 6). -/
def Obligations.HandFrameRoundTrip : Prop :=
  ∀ (s : State) (vs : List Byte), s.Boundary → s.sess = .idle → s.bus = .idle →
    ∃ t seg, execAll (handFrame vs) s = .next t ∧ t.trace = s.trace ++ seg ∧
      extractFrom .idle s.clkDrv s.dioDrv (pairsOf seg) = (.idle, [vs]) ∧
      t.rx = { s.rx with inbox := s.rx.inbox ++ [vs] } ∧
      t.sess = .idle ∧ t.bus = .idle ∧ t.clkDrv = .h ∧ t.dioDrv = .h ∧
      samplesOf seg = s.env.levels vs.length ∧ t.ctl = s.ctl ∧ t.buf = s.buf

/-- R111, R114: a frame of `n` bytes keeps the line discipline, has one start condition, one stop condition, `9n + 1` clock rises,
`29n + 5` phases and `n` samples, and releases DATA in three phases of each byte. -/
def Obligations.FrameLineDiscipline : Prop :=
  ∀ (s : State) (vs : List Byte), s.Boundary → s.sess = .idle → s.bus = .idle →
    ∃ t seg, execAll (handFrame vs) s = .next t ∧ t.trace = s.trace ++ seg ∧
      disciplined s.clkDrv s.dioDrv (pairsOf seg) = true ∧
      countSteps isStart s.clkDrv s.dioDrv (pairsOf seg) = 1 ∧
      countSteps isStop s.clkDrv s.dioDrv (pairsOf seg) = 1 ∧
      countSteps riseStep s.clkDrv s.dioDrv (pairsOf seg) = 9 * vs.length + 1 ∧
      (pairsOf seg).length = 29 * vs.length + 5 ∧ (samplesOf seg).length = vs.length ∧
      ((pairsOf seg).filter (fun p => decide (p.2 = .z))).length = 3 * vs.length

/-! ### The session -/

/-- R172, R201: CONSTRUCT. Its word; with the lines granted; without the grant nothing changes but the response and the draw; with a
session, or after RELEASE, ILLEGAL_STATE without a look at `acq_ok`.
The fields `samples`, `env` and `rx` are the model's own form of R183's results, of the draws and of the receiver (log entries 1, 4, 18). -/
def Obligations.ConstructOpensSession : Prop :=
  (∀ w : CommandWord, w.op = 0x1#4 → decodeCommand w = .construct) ∧
  (∀ s : State, s.Boundary → s.sess = .uninit → s.env.acqOk = true →
    exec .construct s = .next (({ s with
      clkDrv := .h
      dioDrv := .h
      ctl := 0#4
      buf := ⟨0x00#8, 0x00#8, 0x00#8, 0x00#8⟩
      lastAck := true
      ackMiss := false
      bus := .idle
      sess := .idle
      samples := []
      env := s.env.afterAcq
      trace := s.trace ++ [.ph .h .z, .ph .h .h]
      rx := { s.rx with scan := .idle } } : State).answered .ok)) ∧
  (∀ s : State, s.sess = .uninit → s.env.acqOk = false →
    exec .construct s = .next (({ s with env := s.env.afterAcq } : State).answered .acquisitionFailure)) ∧
  (∀ s : State, s.sess ≠ .uninit → exec .construct s = .next (s.answered .illegalState))

/-- R173: RELEASE. Its word; its effect from idle; ILLEGAL_STATE elsewhere; and after it every command is refused, CONSTRUCT included.
The fields `samples`, `env` and `rx` are the model's own form of R183's results, of the draws and of the receiver (log entries 1, 4, 18). -/
def Obligations.ReleaseEndsSession : Prop :=
  (∀ w : CommandWord, w.op = 0x2#4 → decodeCommand w = .release) ∧
  (∀ s : State, s.Boundary → s.sess = .idle → s.bus = .idle →
    exec .release s = .next (({ s with
      clkDrv := .z
      dioDrv := .z
      sess := .released
      samples := []
      trace := s.trace ++ [.ph .h .z, .ph .z .z] } : State).answered .ok)) ∧
  (∀ s : State, ¬ (s.sess = .idle ∧ s.bus = .idle) → exec .release s = .next (s.answered .illegalState)) ∧
  (∀ (s : State) (w : CommandWord), s.sess = .released →
    ∃ c, (c = .illegalState ∨ c = .illegalOp) ∧ exec (decodeCommand w) s = .next (s.answered c))

/-- R174, R203: BRIGHTNESS. Its word; under CLAMP, the policy of R5, it writes `min(level, 7)` and sends the control byte; under REJECT a level
above 7 ends with INVALID_BRIGHTNESS, nothing changed and nothing sent, and a level in range does what it does under CLAMP;
ILLEGAL_STATE elsewhere.
The fields `samples`, `env` and `rx` are the model's own form of R183's results, of the draws and of the receiver (log entries 1, 4, 18). -/
def Obligations.BrightnessSends : Prop :=
  (∀ w : CommandWord, w.op = 0x3#4 → decodeCommand w = .brightness w.arg) ∧
  (∀ (s : State) (level : Byte), s.Boundary → s.sess = .idle → s.bus = .idle →
    exec (.brightness level) s = .next (({ s with
      ctl := (s.ctl &&& 0x8#4) ||| BitVec.ofNat 4 (min level.toNat 7) } : State).sentFrames
        [[0x80#8 ||| (s.ctl &&& 0x8#4).setWidth 8 ||| BitVec.ofNat 8 (min level.toNat 7)]])) ∧
  (∀ (s : State) (level : Byte), s.sess = .idle → s.bus = .idle → 7 < level.toNat →
    (planBrightness .reject level s).perform = s.answered .invalidBrightness) ∧
  (∀ (s : State) (level : Byte), level.toNat ≤ 7 →
    exec (.brightness level) s = .next (planBrightness .reject level s).perform) ∧
  (∀ (s : State) (level : Byte), ¬ (s.sess = .idle ∧ s.bus = .idle) →
    exec (.brightness level) s = .next (s.answered .illegalState) ∧
    (planBrightness .reject level s).perform = s.answered .illegalState)

/-- R175, R176: ON and OFF. Their words; ON sets `ctl.on` and OFF clears it, both keep the brightness and send the control byte with
it; ILLEGAL_STATE elsewhere.
The fields `samples`, `env` and `rx` are the model's own form of R183's results, of the draws and of the receiver (log entries 1, 4, 18). -/
def Obligations.OnAndOffSend : Prop :=
  (∀ w : CommandWord, (w.op = 0x4#4 → decodeCommand w = .on) ∧ (w.op = 0x5#4 → decodeCommand w = .off)) ∧
  (∀ s : State, s.Boundary → s.sess = .idle → s.bus = .idle →
    exec .on s = .next (({ s with ctl := s.ctl ||| 0x8#4 } : State).sentFrames
      [[0x88#8 ||| (s.ctl &&& 0x7#4).setWidth 8]]) ∧
    exec .off s = .next (({ s with ctl := s.ctl &&& 0x7#4 } : State).sentFrames
      [[0x80#8 ||| (s.ctl &&& 0x7#4).setWidth 8]])) ∧
  (∀ s : State, ¬ (s.sess = .idle ∧ s.bus = .idle) →
    exec .on s = .next (s.answered .illegalState) ∧ exec .off s = .next (s.answered .illegalState))

/-- R186 (b): ON, OFF, ON leave the display on and send exactly three control frames, with `b` the brightness kept.
That the three frames then wait in the receiver's inbox, the receiver otherwise as it was, is the model's choice (log entries 1, 6). -/
def Obligations.OnOffOnSendsThreeFrames : Prop :=
  ∀ s : State, s.Boundary → s.sess = .idle → s.bus = .idle →
    ∃ t, execAll [.on, .off, .on] s = .next t ∧ t.ctl = s.ctl ||| 0x8#4 ∧
      t.rx = { s.rx with inbox := s.rx.inbox ++ [[0x88#8 ||| (s.ctl &&& 0x7#4).setWidth 8],
        [0x80#8 ||| (s.ctl &&& 0x7#4).setWidth 8], [0x88#8 ||| (s.ctl &&& 0x7#4).setWidth 8]] }

/-- R152, R179: SHOW. Its word; it writes the glyphs of the text, blank at and beyond its length, and sends the three frames; ILLEGAL_STATE
elsewhere.
The fields `samples`, `env` and `rx` are the model's own form of R183's results, of the draws and of the receiver (log entries 1, 4, 18). -/
def Obligations.ShowSends : Prop :=
  (∀ w : CommandWord, w.op = 0x6#4 → decodeCommand w = .showText w.len w.data) ∧
  (∀ (s : State) (len : Byte) (c : Quad), s.Boundary → s.sess = .idle → s.bus = .idle →
    ∃ q : Quad,
      q = { b0 := if 0 < len.toNat then romChar c.b0 else 0x00#8
            b1 := if 1 < len.toNat then romChar c.b1 else 0x00#8
            b2 := if 2 < len.toNat then romChar c.b2 else 0x00#8
            b3 := if 3 < len.toNat then romChar c.b3 else 0x00#8 } ∧
      exec (.showText len c) s = .next (({ s with buf := q } : State).sentFrames (displayFrames q s.ctl))) ∧
  (∀ (s : State) (len : Byte) (c : Quad), ¬ (s.sess = .idle ∧ s.bus = .idle) →
    exec (.showText len c) s = .next (s.answered .illegalState))

/-- R150, R180: NUMBERS. Its word; it writes the two digit pairs, the separator on the second digit, and sends the three frames;
ILLEGAL_STATE elsewhere.
The fields `samples`, `env` and `rx` are the model's own form of R183's results, of the draws and of the receiver (log entries 1, 4, 18). -/
def Obligations.NumbersSends : Prop :=
  (∀ w : CommandWord, w.op = 0x7#4 → decodeCommand w = .numbers w.a w.b w.colon) ∧
  (∀ (s : State) (a b : BitVec 16) (colon : Bool), s.Boundary → s.sess = .idle → s.bus = .idle →
    ∃ (q : Quad),
      [q.b0, q.b1, q.b2, q.b3] = (fmtNumber a.toNat 2 true ++ fmtNumber b.toNat 2 true).modify 1
        (fun v => if colon then v ||| 0x80#8 else v) ∧
      exec (.numbers a b colon) s = .next (({ s with buf := q } : State).sentFrames (displayFrames q s.ctl))) ∧
  (∀ (s : State) (a b : BitVec 16) (colon : Bool), ¬ (s.sess = .idle ∧ s.bus = .idle) →
    exec (.numbers a b colon) s = .next (s.answered .illegalState))

/-- R181, R182: CLEAR and RAW. Their words; CLEAR writes the all-blank buffer, RAW the bytes as given, and both send the three frames;
CLEAR, SHOW of the empty text and RAW of four zero bytes are one, in every state; ILLEGAL_STATE elsewhere.
The fields `samples`, `env` and `rx` are the model's own form of R183's results, of the draws and of the receiver (log entries 1, 4, 18). -/
def Obligations.ClearAndRawSend : Prop :=
  (∀ w : CommandWord, (w.op = 0x8#4 → decodeCommand w = .clear) ∧ (w.op = 0x9#4 → decodeCommand w = .raw w.data)) ∧
  (∀ (s : State) (segs : Quad), s.Boundary → s.sess = .idle → s.bus = .idle →
    exec .clear s = .next (({ s with buf := ⟨0x00#8, 0x00#8, 0x00#8, 0x00#8⟩ } : State).sentFrames
      (displayFrames ⟨0x00#8, 0x00#8, 0x00#8, 0x00#8⟩ s.ctl)) ∧
    exec (.raw segs) s = .next (({ s with buf := segs } : State).sentFrames (displayFrames segs s.ctl))) ∧
  (∀ (s : State) (chars : Quad),
    exec (.showText 0#8 chars) s = exec .clear s ∧ exec (.raw ⟨0x00#8, 0x00#8, 0x00#8, 0x00#8⟩) s = exec .clear s) ∧
  (∀ (s : State) (segs : Quad), ¬ (s.sess = .idle ∧ s.bus = .idle) →
    exec .clear s = .next (s.answered .illegalState) ∧ exec (.raw segs) s = .next (s.answered .illegalState))

/-- R152, R154(b), R85: a text of any length shows what its first four characters show. -/
def Obligations.ShowTruncatesText : Prop :=
  ∀ (s : State) (text : List Byte),
    exec (assemble (.showText text)) s = exec (assemble (.showText (text.take 4))) s

/-- R177: what a control operation puts on the wire is START, WRITEBYTE of the control byte, STOP: 34 phases and 1 sample. -/
def Obligations.ControlIsStartWriteStop : Prop :=
  ∀ (s t u : State) (i : Instr) (ctl : BitVec 4), s.Boundary → s.sess = .idle → s.bus = .idle →
    controlValue s.ctl i = some ctl → exec i s = .next t →
    execAll [.start, .writeByte (0x80#8 ||| ctl.setWidth 8), .stop] s = .next u →
    t.ctl = ctl ∧ t.trace = u.trace ∧ t.rx = u.rx ∧ t.env = u.env ∧ t.lastAck = u.lastAck ∧ t.ackMiss = u.ackMiss ∧
      t.clkDrv = u.clkDrv ∧ t.dioDrv = u.dioDrv ∧ t.bus = u.bus ∧
      ∃ seg, t.trace = s.trace ++ seg ∧ (pairsOf seg).length = 34 ∧ (samplesOf seg).length = 1

/-- R178: what a display write puts on the wire is the three frames, each START, its bytes, STOP, in this order. -/
def Obligations.DisplayWriteIsThreeFrames : Prop :=
  ∀ (s t u : State) (i : Instr) (q : Quad), s.Boundary → s.sess = .idle → s.bus = .idle →
    displayBuffer i = some q → exec i s = .next t →
    execAll (handFrame [0x40#8] ++ (handFrame [0xC0#8, q.b0, q.b1, q.b2, q.b3] ++
      handFrame [0x80#8 ||| s.ctl.setWidth 8])) s = .next u →
    t.buf = q ∧ t.ctl = s.ctl ∧ t.trace = u.trace ∧ t.rx = u.rx ∧ t.env = u.env ∧ t.lastAck = u.lastAck ∧
      t.ackMiss = u.ackMiss ∧ t.clkDrv = u.clkDrv ∧ t.dioDrv = u.dioDrv ∧ t.bus = u.bus

/-- R171, R101: the phases and samples of an operation depend on the operation alone: 34 and 1 for a control operation, 218 and 7 for a
display write, 2 and 0 for RELEASE and for CONSTRUCT, none for a CONSTRUCT that fails; and it ends with the bus idle and the
lines idle high, or released.
The phases are held `T_DELAY` ticks each; that no other tick is counted is the model's choice (log entry 5). -/
def Obligations.FixedLength : Prop :=
  (∀ (s t : State) (i : Instr), s.Boundary → s.sess = .idle → s.bus = .idle → exec i s = .next t →
    ∃ seg, t.trace = s.trace ++ seg ∧
      ((controlValue s.ctl i).isSome = true →
        (pairsOf seg).length = 34 ∧ (samplesOf seg).length = 1 ∧ holdTicks seg = 34 * Config.tDelay ∧
        t.bus = .idle ∧ t.clkDrv = .h ∧ t.dioDrv = .h) ∧
      ((displayBuffer i).isSome = true →
        (pairsOf seg).length = 218 ∧ (samplesOf seg).length = 7 ∧ holdTicks seg = 218 * Config.tDelay ∧
        t.bus = .idle ∧ t.clkDrv = .h ∧ t.dioDrv = .h) ∧
      (i = .release → (pairsOf seg).length = 2 ∧ (samplesOf seg).length = 0 ∧ t.bus = .idle ∧ t.clkDrv = .z ∧ t.dioDrv = .z)) ∧
  (∀ (s t : State), s.Boundary → s.sess = .uninit → exec .construct s = .next t →
    ∃ seg, t.trace = s.trace ++ seg ∧
      (t.rspStatus = .ok → (pairsOf seg).length = 2 ∧ (samplesOf seg).length = 0 ∧ t.bus = .idle ∧ t.clkDrv = .h ∧ t.dioDrv = .h) ∧
      (t.rspStatus ≠ .ok → seg = [] ∧ t.clkDrv = .z ∧ t.dioDrv = .z))

/-- R109, R186(d): what the samples read changes flags, samples and responses only: the line pairs, the registers, the receiver and
the bus are the same for every environment, in every state. -/
def Obligations.SamplesNeverChangeTheWire : Prop :=
  ∀ (s t t' : State) (e : Env) (i : Instr), i ≠ .construct → exec i s = .next t → exec i { s with env := e } = .next t' →
    pairsOf t.trace = pairsOf t'.trace ∧ t.rx = t'.rx ∧ t.ctl = t'.ctl ∧ t.buf = t'.buf ∧ t.sess = t'.sess ∧
      t.bus = t'.bus ∧ t.clkDrv = t'.clkDrv ∧ t.dioDrv = t'.dioDrv ∧ t.seq = t'.seq ∧ t.rspValid = t'.rspValid ∧ t.host = t'.host

/-- R185: `sess` leaves UNINIT by a successful CONSTRUCT only and IDLE by RELEASE only; RELEASED is left by no instruction. -/
def Obligations.SessionTransitions : Prop :=
  ∀ (s t : State) (i : Instr), exec i s = .next t →
    t.sess = s.sess ∨
    (s.sess = .uninit ∧ t.sess = .idle ∧ i = .construct ∧ t.rspStatus = .ok) ∨
    (s.sess = .idle ∧ t.sess = .released ∧ i = .release ∧ t.rspStatus = .ok)

/-- R208: conditions are precise: an operation that ends with a code from 2 to 5 changed nothing but the response (and took the draw of
`acq_ok`); no operation ends half done. -/
def Obligations.ConditionsArePrecise : Prop :=
  ∀ (s t : State) (i : Instr), i.isWire = false → exec i s = .next t →
    t.rspStatus ≠ .ok → t.rspStatus ≠ .ackMissing →
    t = ({ s with env := if t.rspStatus = .acquisitionFailure then s.env.afterAcq else s.env } : State).answered t.rspStatus

/-- R21, R22, R188: which instructions write which register: `buf` the display writes and CONSTRUCT, `ctl` the control operations and
CONSTRUCT, the lines, the bus and the ACK flags no wire command; and a wire command writes the receiver alone. -/
def Obligations.RegisterFrame : Prop :=
  ∀ (s t : State) (i : Instr), exec i s = .next t →
    t.host = s.host ∧
    ((displayBuffer i).isNone = true → i ≠ .construct → t.buf = s.buf) ∧
    ((controlValue s.ctl i).isNone = true → i ≠ .construct → t.ctl = s.ctl) ∧
    (i.isWire = true → t = { s with rx := t.rx }) ∧
    (s.ackMiss = true → i ≠ .construct → t.ackMiss = true) ∧
    (i = .start ∨ i = .stop ∨ i = .release → t.lastAck = s.lastAck ∧ t.ackMiss = s.ackMiss ∧ t.env = s.env)

/-- No command of the engine changes what the receiver has taken: its display registers, mode, on/off and brightness stay until
a frame is executed (R58); a frame the engine completes only joins the inbox.
When the receiver acts on a frame, R54 and R58 leave open: this is the model's choice (log entry 6). -/
def Obligations.EngineLeavesDisplayAlone : Prop :=
  ∀ (s t : State) (i : Instr), s.Boundary → i.isWire = false → exec i s = .next t →
    (∀ a, Memory.read t.rx.mem a = Memory.read s.rx.mem a) ∧ t.rx.mode = s.rx.mode ∧ t.rx.on = s.rx.on ∧
      t.rx.bright = s.rx.bright ∧ t.rx.args = s.rx.args ∧ ∃ fs, t.rx.inbox = s.rx.inbox ++ fs

/-- R83, R77: a session operation sends nothing but `[0x40]`, `[0xC0, d0, d1, d2, d3]` and `[0x80]` to `[0x8F]`.
That the frames it sends join the receiver's inbox, behind those there, is the model's choice (log entries 1, 6). -/
def Obligations.SessionFramesOnly : Prop :=
  ∀ (s t : State) (i : Instr), s.Boundary → i.isWire = false → i ≠ .stop → exec i s = .next t →
    ∃ fs, t.rx.inbox = s.rx.inbox ++ fs ∧ ∀ f ∈ fs,
      f = [0x40#8] ∨ (∃ q : Quad, f = [0xC0#8, q.b0, q.b1, q.b2, q.b3]) ∨ (∃ ctl : BitVec 4, f = [0x80#8 ||| ctl.setWidth 8])

/-! ### The receiver -/

/-- R57, R58: an address frame in AUTO mode that fits stores its bytes at consecutive addresses; every other address, and everything
else, stays.
The receiver as a part of this machine and its field `args` are the model's choice (log entries 1, 19). -/
def Obligations.AddressCommandStores : Prop :=
  ∀ (s : State) (a : BitVec 3), a.toNat ≤ 5 → 1 ≤ s.rx.args.length → s.rx.mode = some .auto →
    a.toNat + s.rx.args.length ≤ 6 →
    ∃ t, exec (.addrCmd a) s = .next t ∧ t = { s with rx := { s.rx with mem := t.rx.mem, args := [] } } ∧
      (∀ i (h : i < s.rx.args.length), Memory.read t.rx.mem (a.toNat + i) = some s.rx.args[i]) ∧
      (∀ x, x < a.toNat ∨ a.toNat + s.rx.args.length ≤ x → Memory.read t.rx.mem x = Memory.read s.rx.mem x)

/-- R58: an address frame with no data, out of range, past address 5, or not in AUTO mode makes the receiver unknown.
The receiver as a part of this machine and its field `args` are the model's choice (log entries 1, 19), and for the addresses 6 and 7,
which the decoder never gives, the outcome is deduced (log entry 13). -/
def Obligations.AddressCommandSpoils : Prop :=
  ∀ (s : State) (a : BitVec 3),
    ¬ (a.toNat ≤ 5 ∧ 1 ≤ s.rx.args.length ∧ s.rx.mode = some .auto ∧ a.toNat + s.rx.args.length ≤ 6) →
    exec (.addrCmd a) s = .next { s with
      rx := { s.rx with args := [], mode := none, mem := [], on := none, bright := none } }

/-- R57, R58: the frames `[0x40]` and `[0x44]` set the addressing mode, the frame `[0x80 | x]` sets on/off and brightness.
The receiver as a part of this machine and its field `args` are the model's choice (log entries 1, 19). -/
def Obligations.OneByteFramesSet : Prop :=
  ∀ s : State, s.rx.args = [] →
    exec .dataCmdAuto s = .next { s with rx := { s.rx with mode := some .auto } } ∧
    exec .dataCmdFixed s = .next { s with rx := { s.rx with mode := some .fixed } } ∧
    ∀ (on : Bool) (b : BitVec 3),
      exec (.ctrlCmd on b) s = .next { s with rx := { s.rx with on := some on, bright := some b } }

/-- R58: a data command or a control command with data bytes after it is a frame of no kind: the receiver becomes unknown.
The receiver as a part of this machine and its field `args` are the model's choice (log entries 1, 19). -/
def Obligations.OneByteFramesWithDataSpoil : Prop :=
  ∀ (s : State) (i : Instr), s.rx.args ≠ [] →
    (i = .dataCmdAuto ∨ i = .dataCmdFixed ∨ ∃ on b, i = .ctrlCmd on b) →
    exec i s = .next { s with rx := { s.rx with args := [], mode := none, mem := [], on := none, bright := none } }

/-- R54: sending the same three frames twice leaves the receiver in the same state as sending them once. -/
def Obligations.DisplayWriteIdempotent : Prop :=
  ∀ (rx : Receiver) (q : Quad) (ctl : BitVec 4),
    (rx.frames (displayFrames q ctl)).frames (displayFrames q ctl) = rx.frames (displayFrames q ctl)

/-- R57, R58, R178: a display write at the port of an idle engine comes to show: after the operation and the receiver's three frames,
display registers 0 to 3 hold the buffer, the others what they held, and on/off and brightness are those of `ctl`.
When the frames are executed is the model's choice (log entries 1, 6). -/
def Obligations.DisplayWriteReachesDisplay : Prop :=
  ∀ (s : State) (w : CommandWord) (evs : List HostEvent) (q : Quad),
    s.Boundary → s.sess = .idle → s.bus = .idle → s.seq = .rest → s.rx.inbox = [] →
    s.host = .command w :: evs → displayBuffer (decodeCommand w) = some q →
    ∃ t, core.run 4 s = .next t ∧ t.buf = q ∧ t.ctl = s.ctl ∧ t.host = evs ∧ t.rx.inbox = [] ∧
      t.rx.mode = some .auto ∧
      Memory.read t.rx.mem 0 = some q.b0 ∧ Memory.read t.rx.mem 1 = some q.b1 ∧
      Memory.read t.rx.mem 2 = some q.b2 ∧ Memory.read t.rx.mem 3 = some q.b3 ∧
      (∀ a, 4 ≤ a → Memory.read t.rx.mem a = Memory.read s.rx.mem a) ∧
      t.rx.on = some (s.ctl.getLsbD 3) ∧ t.rx.bright = some (s.ctl.setWidth 3)

/-- R57, R177: a control operation at the port of an idle engine comes to show: the receiver's on/off and brightness are those of the new
`ctl`, its display registers and its mode what they were.
When the frames are executed is the model's choice (log entries 1, 6). -/
def Obligations.ControlReachesDisplay : Prop :=
  ∀ (s : State) (w : CommandWord) (evs : List HostEvent) (ctl : BitVec 4),
    s.Boundary → s.sess = .idle → s.bus = .idle → s.seq = .rest → s.rx.inbox = [] →
    s.host = .command w :: evs → controlValue s.ctl (decodeCommand w) = some ctl →
    ∃ t, core.run 2 s = .next t ∧ t.ctl = ctl ∧ t.buf = s.buf ∧ t.host = evs ∧ t.rx.inbox = [] ∧
      t.rx.on = some (ctl.getLsbD 3) ∧ t.rx.bright = some (ctl.setWidth 3) ∧ t.rx.mem = s.rx.mem ∧ t.rx.mode = s.rx.mode

/-! ### Ports -/

/-- R23, R25, R26, R200, R230: the pins of a line, the status codes, the encodings of `sess_q` and `bus_q`, and what every output port
shows of the state. CLOCK's pins show `clk_drv` and DATA's show `dio_drv`; `cmd_ready` is 1 at REST unless `rst_n` is low.
Which element of `buf` stands in which bits of `buf_q`, and the level of `rst_n` as what the host does next, are the model's choice
(log entries 25, 26). -/
def Obligations.PortEncodings : Prop :=
  ([Drive.z, .l, .h].map (fun d => (d.oe, d.out)) = [(false, false), (true, false), (true, true)]) ∧
  ([Status.ok, .ackMissing, .invalidBrightness, .illegalState, .illegalOp, .acquisitionFailure].map Status.code
    = [0#3, 1#3, 2#3, 3#3, 4#3, 5#3]) ∧
  ([Sess.uninit, .idle, .released].map Sess.code = [0#2, 1#2, 2#2]) ∧ ([Bus.idle, .frame].map Bus.code = [0#1, 1#1]) ∧
  (∀ s : State,
    (s.outputs.cmdReady = true ↔ s.seq = .rest ∧ ¬ (s.rx.inbox = [] ∧ ∃ evs, s.host = .reset :: evs)) ∧
    s.outputs.rspValid = s.rspValid ∧ s.outputs.rspStatus = s.rspStatus.code ∧ s.outputs.rspAck = s.rspAck ∧
    s.outputs.clkOe = s.clkDrv.oe ∧ s.outputs.clkOut = s.clkDrv.out ∧
    s.outputs.dioOe = s.dioDrv.oe ∧ s.outputs.dioOut = s.dioDrv.out ∧
    s.outputs.ctlQ = s.ctl ∧ s.outputs.lastAckQ = s.lastAck ∧ s.outputs.ackMissQ = s.ackMiss ∧
    s.outputs.sessQ = s.sess.code ∧ s.outputs.busQ = s.bus.code ∧
    s.outputs.bufQ.extractLsb' 0 8 = s.buf.b0 ∧ s.outputs.bufQ.extractLsb' 8 8 = s.buf.b1 ∧
    s.outputs.bufQ.extractLsb' 16 8 = s.buf.b2 ∧ s.outputs.bufQ.extractLsb' 24 8 = s.buf.b3)

/-- R25: `rsp_valid` is 1 for the one step in which an operation ends, and 0 after every other step, in every state: an operation ends
in a step that takes a whole command, that launches a command with no phase to run, or that runs the last phase.
The step as the one tick, the order of the agents and the list of host events are the model's choice (log entries 3, 5, 6). -/
def Obligations.RspValidForOneStep : Prop :=
  ∀ s t : State, step s = .next t →
    (t.rspValid = true ↔ s.rx.inbox = [] ∧
      ((s.seq = .rest ∧ ∃ w evs, s.host = .command w :: evs) ∨
       (s.seq = .rest ∧ (∃ w evs, s.host = .commandByPhase w :: evs) ∧ t.seq = .rest) ∨
       ((∃ p fin, s.seq = .busy p [] fin) ∧ ∀ evs, s.host ≠ .reset :: evs)))

/-- R156 (f), R27: the place of every phase of every operation is in range: frame 0 to 2, byte 0 to NDIGITS, phase 1 to 29.
Where the numbers begin, and the byte that a phase which sends none counts with, are the model's choice (log entry 9). -/
def Obligations.PhasePlacesInRange : Prop :=
  ∀ (i : Instr) (s t : State) (ps : List Phase) (fin : Finish), planOf i s = some (.run t ps fin) →
    ∀ p ∈ ps, p.frame ≤ 2 ∧ p.byte ≤ 4 ∧ 1 ≤ p.index ∧ p.index ≤ 29
end

