-- ==== Sys2Proof/Laws/Decode.lean ====
section
/-! SUPPORT. The fields of a command word built from fields (R80), and of the `data` field built from bytes. -/

namespace Sys2Proof

@[simp] theorem quadOfBits_toBits (q : Quad) : Quad.ofBits q.toBits = q := by
  obtain ⟨b0, b1, b2, b3⟩ := q
  simp only [Quad.ofBits, Quad.toBits, Quad.mk.injEq]
  refine ⟨?_, ?_, ?_, ?_⟩ <;> (ext i hi; interval_cases i <;> simp)

section
variable (op : BitVec 4) (colon : Bool) (arg len : Byte) (a b : BitVec 16) (data : Quad)

@[simp] theorem commandWord_op : (commandWord op colon arg len a b data).op = op := by
  unfold commandWord CommandWord.op; ext i hi; interval_cases i <;> simp

@[simp] theorem commandWord_colon : (commandWord op colon arg len a b data).colon = colon := by
  unfold commandWord CommandWord.colon; simp

@[simp] theorem commandWord_arg : (commandWord op colon arg len a b data).arg = arg := by
  unfold commandWord CommandWord.arg; ext i hi; interval_cases i <;> simp

@[simp] theorem commandWord_len : (commandWord op colon arg len a b data).len = len := by
  unfold commandWord CommandWord.len; ext i hi; interval_cases i <;> simp

@[simp] theorem commandWord_a : (commandWord op colon arg len a b data).a = a := by
  unfold commandWord CommandWord.a; ext i hi; interval_cases i <;> simp

@[simp] theorem commandWord_b : (commandWord op colon arg len a b data).b = b := by
  unfold commandWord CommandWord.b; ext i hi; interval_cases i <;> simp

@[simp] theorem commandWord_data : (commandWord op colon arg len a b data).data = data := by
  have h : (commandWord op colon arg len a b data).extractLsb' 0 32 = data.toBits := by
    unfold commandWord; ext i hi; interval_cases i <;> simp
  unfold CommandWord.data; rw [h, quadOfBits_toBits]

end

end Sys2Proof
end

