-- ==== Sys2Proof/Laws/Memory.lean ====
section
/-! SUPPORT. The display registers: a read after a write, and that every memory operation keeps the canonical form. -/

namespace Sys2Proof.Machine

@[simp] theorem read_nil (x : Nat) : Memory.read [] x = none := rfl

@[simp] theorem wf_nil : Memory.wf [] = true := rfl

/-- A read after a write gives the byte written at its address and leaves every other address alone. -/
theorem read_write (m : Memory) (x y : Nat) (v : Byte) :
    Memory.read (Memory.write m x v) y = if y = x then some v else Memory.read m y := by
  induction m with
  | nil => simp only [Memory.write, Memory.read]
  | cons cell m ih =>
    obtain ⟨a, w⟩ := cell
    simp only [Memory.write]
    split
    · simp only [Memory.read]
    · split
      · rename_i h; subst h
        simp only [Memory.read]
        split <;> simp_all
      · simp only [Memory.read, ih]
        split <;> simp_all [eq_comm]

/-- The bytes of a frame land at consecutive addresses, and every other address keeps its byte (R57). -/
theorem read_writeFrom (m : Memory) (a : Nat) (vs : List Byte) (y : Nat) :
    Memory.read (Memory.writeFrom m a vs) y =
      if h : a ≤ y ∧ y < a + vs.length then some (vs[y - a]'(by omega)) else Memory.read m y := by
  induction vs generalizing m a with
  | nil => simp [Memory.writeFrom]
  | cons v vs ih =>
    rw [Memory.writeFrom, ih, read_write]
    by_cases hy : y = a
    · subst hy; simp
    · by_cases h1 : a + 1 ≤ y ∧ y < a + 1 + vs.length
      · have h2 : a ≤ y ∧ y < a + (v :: vs).length := by simp; omega
        have h3 : y - a = (y - (a + 1)) + 1 := by omega
        simp only [dif_pos h1, dif_pos h2, h3, List.getElem_cons_succ]
      · have h2 : ¬ (a ≤ y ∧ y < a + (v :: vs).length) := by simp; omega
        rw [dif_neg h1, dif_neg h2, if_neg hy]

/-- Every address of a list is above a bound. -/
def Memory.above (b : Nat) (m : Memory) : Bool := m.all (fun cell => decide (b < cell.1))

theorem sorted_cons (a : Nat) (w : Byte) (m : Memory) :
    Memory.sorted ((a, w) :: m) = (Memory.above a m && Memory.sorted m) := by
  induction m generalizing a w with
  | nil => rfl
  | cons cell m ih =>
    obtain ⟨b, u⟩ := cell
    rw [Memory.sorted, ih]
    rw [Bool.eq_iff_iff]
    simp only [Memory.above, List.all_cons, Bool.and_eq_true, decide_eq_true_eq, List.all_eq_true]
    constructor
    · rintro ⟨h, k, l⟩
      exact ⟨⟨h, fun c hc => lt_trans h (k c hc)⟩, k, l⟩
    · rintro ⟨⟨h, _⟩, k, l⟩
      exact ⟨h, k, l⟩

theorem above_write (b x : Nat) (v : Byte) (m : Memory) (hb : b < x) (h : Memory.above b m = true) :
    Memory.above b (Memory.write m x v) = true := by
  induction m with
  | nil => simp [Memory.above, Memory.write, hb]
  | cons cell m ih =>
    obtain ⟨a, w⟩ := cell
    simp only [Memory.above, List.all_cons, Bool.and_eq_true, decide_eq_true_eq] at h ih ⊢
    simp only [Memory.write]
    split
    · simp [hb, h.1, h.2]
    · split
      · simp [h.1, h.2]
      · simp [h.1, ih h.2]

theorem sorted_write (m : Memory) (x : Nat) (v : Byte) (h : Memory.sorted m = true) :
    Memory.sorted (Memory.write m x v) = true := by
  induction m with
  | nil => rfl
  | cons cell m ih =>
    obtain ⟨a, w⟩ := cell
    rw [sorted_cons] at h
    simp only [Bool.and_eq_true] at h
    simp only [Memory.write]
    split
    · rename_i hx
      rw [sorted_cons, sorted_cons]
      have hlt : Memory.above x m = true := by
        have := h.1
        simp only [Memory.above, List.all_eq_true, decide_eq_true_eq] at this ⊢
        exact fun c hc => lt_trans hx (this c hc)
      simp only [Memory.above, List.all_cons] at hlt ⊢
      simp [hx, h.2, hlt]
      simpa [Memory.above] using h.1
    · split
      · rw [sorted_cons]; simp [h.1, h.2]
      · rw [sorted_cons, above_write a x v m (by omega) h.1, ih h.2]; rfl

/-- Writing a display register keeps the canonical form. -/
theorem wf_write (m : Memory) (x : Nat) (v : Byte) (hx : x ≤ Config.addrMax) (h : Memory.wf m = true) :
    Memory.wf (Memory.write m x v) = true := by
  simp only [Memory.wf, Bool.and_eq_true] at h ⊢
  refine ⟨sorted_write m x v h.1, ?_⟩
  have hall := h.2
  clear h
  induction m with
  | nil => simp [Memory.write, hx]
  | cons cell m ih =>
    obtain ⟨a, w⟩ := cell
    simp only [List.all_cons, Bool.and_eq_true, decide_eq_true_eq] at hall
    simp only [Memory.write]
    split
    · simp [hx, hall.1, hall.2]
    · split
      · simp [hall.1, hall.2]
      · simp [hall.1, ih hall.2]

/-- A frame's store keeps the canonical form where it stays within the display registers (R58). -/
theorem wf_writeFrom (m : Memory) (a : Nat) (vs : List Byte) (ha : a + vs.length ≤ Config.maxDigits)
    (h : Memory.wf m = true) : Memory.wf (Memory.writeFrom m a vs) = true := by
  induction vs generalizing m a with
  | nil => exact h
  | cons v vs ih =>
    simp only [List.length_cons, Config.maxDigits] at ha
    exact ih _ (a + 1) (by simp only [Config.maxDigits]; omega) (wf_write m a v (by simp only [Config.addrMax]; omega) h)

/-- Reset's display registers have the canonical form. -/
theorem wf_reset : Memory.wf State.reset.rx.mem = true := rfl

/-! What each receiver command keeps. -/

theorem wf_dataCommand (rx : Receiver) (mode : AddrMode) (h : Memory.wf rx.mem = true) :
    Memory.wf (rx.dataCommand mode).mem = true := by
  unfold Receiver.dataCommand; split
  · exact h
  · rfl

theorem wf_ctrlCommand (rx : Receiver) (on : Bool) (b : BitVec 3) (h : Memory.wf rx.mem = true) :
    Memory.wf (rx.ctrlCommand on b).mem = true := by
  unfold Receiver.ctrlCommand; split
  · exact h
  · rfl

theorem wf_addrCommand (rx : Receiver) (a : Nat) (h : Memory.wf rx.mem = true) :
    Memory.wf (rx.addrCommand a).mem = true := by
  unfold Receiver.addrCommand; split
  · rename_i hs
    simp only [Receiver.stores, Bool.and_eq_true, decide_eq_true_eq] at hs
    exact wf_writeFrom _ _ _ hs.2 h
  · rfl

end Sys2Proof.Machine
end

