-- ==== Sys2Proof/Laws/State.lean ====
section
/-! SUPPORT. One lemma per field per named update of the state, so that no later proof unfolds a record update. -/

namespace Sys2Proof.Machine

/-! ### `State.setOn` -/

@[simp] theorem setOn_sess (s : State) (on : Bool) : (s.setOn on).sess = s.sess := rfl
@[simp] theorem setOn_bus (s : State) (on : Bool) : (s.setOn on).bus = s.bus := rfl
@[simp] theorem setOn_seq (s : State) (on : Bool) : (s.setOn on).seq = s.seq := rfl
@[simp] theorem setOn_clkDrv (s : State) (on : Bool) : (s.setOn on).clkDrv = s.clkDrv := rfl
@[simp] theorem setOn_dioDrv (s : State) (on : Bool) : (s.setOn on).dioDrv = s.dioDrv := rfl
@[simp] theorem setOn_ctl (s : State) (on : Bool) : (s.setOn on).ctl = ctlOf on (ctlBright s.ctl) := rfl
@[simp] theorem setOn_buf (s : State) (on : Bool) : (s.setOn on).buf = s.buf := rfl
@[simp] theorem setOn_lastAck (s : State) (on : Bool) : (s.setOn on).lastAck = s.lastAck := rfl
@[simp] theorem setOn_ackMiss (s : State) (on : Bool) : (s.setOn on).ackMiss = s.ackMiss := rfl
@[simp] theorem setOn_rspStatus (s : State) (on : Bool) : (s.setOn on).rspStatus = s.rspStatus := rfl
@[simp] theorem setOn_rspAck (s : State) (on : Bool) : (s.setOn on).rspAck = s.rspAck := rfl
@[simp] theorem setOn_rspValid (s : State) (on : Bool) : (s.setOn on).rspValid = s.rspValid := rfl
@[simp] theorem setOn_samples (s : State) (on : Bool) : (s.setOn on).samples = s.samples := rfl
@[simp] theorem setOn_trace (s : State) (on : Bool) : (s.setOn on).trace = s.trace := rfl
@[simp] theorem setOn_rx (s : State) (on : Bool) : (s.setOn on).rx = s.rx := rfl
@[simp] theorem setOn_env (s : State) (on : Bool) : (s.setOn on).env = s.env := rfl
@[simp] theorem setOn_host (s : State) (on : Bool) : (s.setOn on).host = s.host := rfl

/-! ### `State.setBright` -/

@[simp] theorem setBright_sess (s : State) (b : BitVec 3) : (s.setBright b).sess = s.sess := rfl
@[simp] theorem setBright_bus (s : State) (b : BitVec 3) : (s.setBright b).bus = s.bus := rfl
@[simp] theorem setBright_seq (s : State) (b : BitVec 3) : (s.setBright b).seq = s.seq := rfl
@[simp] theorem setBright_clkDrv (s : State) (b : BitVec 3) : (s.setBright b).clkDrv = s.clkDrv := rfl
@[simp] theorem setBright_dioDrv (s : State) (b : BitVec 3) : (s.setBright b).dioDrv = s.dioDrv := rfl
@[simp] theorem setBright_ctl (s : State) (b : BitVec 3) : (s.setBright b).ctl = ctlOf (ctlOn s.ctl) b := rfl
@[simp] theorem setBright_buf (s : State) (b : BitVec 3) : (s.setBright b).buf = s.buf := rfl
@[simp] theorem setBright_lastAck (s : State) (b : BitVec 3) : (s.setBright b).lastAck = s.lastAck := rfl
@[simp] theorem setBright_ackMiss (s : State) (b : BitVec 3) : (s.setBright b).ackMiss = s.ackMiss := rfl
@[simp] theorem setBright_rspStatus (s : State) (b : BitVec 3) : (s.setBright b).rspStatus = s.rspStatus := rfl
@[simp] theorem setBright_rspAck (s : State) (b : BitVec 3) : (s.setBright b).rspAck = s.rspAck := rfl
@[simp] theorem setBright_rspValid (s : State) (b : BitVec 3) : (s.setBright b).rspValid = s.rspValid := rfl
@[simp] theorem setBright_samples (s : State) (b : BitVec 3) : (s.setBright b).samples = s.samples := rfl
@[simp] theorem setBright_trace (s : State) (b : BitVec 3) : (s.setBright b).trace = s.trace := rfl
@[simp] theorem setBright_rx (s : State) (b : BitVec 3) : (s.setBright b).rx = s.rx := rfl
@[simp] theorem setBright_env (s : State) (b : BitVec 3) : (s.setBright b).env = s.env := rfl
@[simp] theorem setBright_host (s : State) (b : BitVec 3) : (s.setBright b).host = s.host := rfl

/-! ### `State.setBuf` -/

@[simp] theorem setBuf_sess (s : State) (q : Quad) : (s.setBuf q).sess = s.sess := rfl
@[simp] theorem setBuf_bus (s : State) (q : Quad) : (s.setBuf q).bus = s.bus := rfl
@[simp] theorem setBuf_seq (s : State) (q : Quad) : (s.setBuf q).seq = s.seq := rfl
@[simp] theorem setBuf_clkDrv (s : State) (q : Quad) : (s.setBuf q).clkDrv = s.clkDrv := rfl
@[simp] theorem setBuf_dioDrv (s : State) (q : Quad) : (s.setBuf q).dioDrv = s.dioDrv := rfl
@[simp] theorem setBuf_ctl (s : State) (q : Quad) : (s.setBuf q).ctl = s.ctl := rfl
@[simp] theorem setBuf_buf (s : State) (q : Quad) : (s.setBuf q).buf = q := rfl
@[simp] theorem setBuf_lastAck (s : State) (q : Quad) : (s.setBuf q).lastAck = s.lastAck := rfl
@[simp] theorem setBuf_ackMiss (s : State) (q : Quad) : (s.setBuf q).ackMiss = s.ackMiss := rfl
@[simp] theorem setBuf_rspStatus (s : State) (q : Quad) : (s.setBuf q).rspStatus = s.rspStatus := rfl
@[simp] theorem setBuf_rspAck (s : State) (q : Quad) : (s.setBuf q).rspAck = s.rspAck := rfl
@[simp] theorem setBuf_rspValid (s : State) (q : Quad) : (s.setBuf q).rspValid = s.rspValid := rfl
@[simp] theorem setBuf_samples (s : State) (q : Quad) : (s.setBuf q).samples = s.samples := rfl
@[simp] theorem setBuf_trace (s : State) (q : Quad) : (s.setBuf q).trace = s.trace := rfl
@[simp] theorem setBuf_rx (s : State) (q : Quad) : (s.setBuf q).rx = s.rx := rfl
@[simp] theorem setBuf_env (s : State) (q : Quad) : (s.setBuf q).env = s.env := rfl
@[simp] theorem setBuf_host (s : State) (q : Quad) : (s.setBuf q).host = s.host := rfl

/-! ### `State.tookAcq` -/

@[simp] theorem tookAcq_sess (s : State) : (s.tookAcq).sess = s.sess := rfl
@[simp] theorem tookAcq_bus (s : State) : (s.tookAcq).bus = s.bus := rfl
@[simp] theorem tookAcq_seq (s : State) : (s.tookAcq).seq = s.seq := rfl
@[simp] theorem tookAcq_clkDrv (s : State) : (s.tookAcq).clkDrv = s.clkDrv := rfl
@[simp] theorem tookAcq_dioDrv (s : State) : (s.tookAcq).dioDrv = s.dioDrv := rfl
@[simp] theorem tookAcq_ctl (s : State) : (s.tookAcq).ctl = s.ctl := rfl
@[simp] theorem tookAcq_buf (s : State) : (s.tookAcq).buf = s.buf := rfl
@[simp] theorem tookAcq_lastAck (s : State) : (s.tookAcq).lastAck = s.lastAck := rfl
@[simp] theorem tookAcq_ackMiss (s : State) : (s.tookAcq).ackMiss = s.ackMiss := rfl
@[simp] theorem tookAcq_rspStatus (s : State) : (s.tookAcq).rspStatus = s.rspStatus := rfl
@[simp] theorem tookAcq_rspAck (s : State) : (s.tookAcq).rspAck = s.rspAck := rfl
@[simp] theorem tookAcq_rspValid (s : State) : (s.tookAcq).rspValid = s.rspValid := rfl
@[simp] theorem tookAcq_samples (s : State) : (s.tookAcq).samples = s.samples := rfl
@[simp] theorem tookAcq_trace (s : State) : (s.tookAcq).trace = s.trace := rfl
@[simp] theorem tookAcq_rx (s : State) : (s.tookAcq).rx = s.rx := rfl
@[simp] theorem tookAcq_env (s : State) : (s.tookAcq).env = s.env.afterAcq := rfl
@[simp] theorem tookAcq_host (s : State) : (s.tookAcq).host = s.host := rfl

/-! ### `State.begin` -/

@[simp] theorem begin_sess (s : State) : (s.begin).sess = s.sess := rfl
@[simp] theorem begin_bus (s : State) : (s.begin).bus = s.bus := rfl
@[simp] theorem begin_seq (s : State) : (s.begin).seq = s.seq := rfl
@[simp] theorem begin_clkDrv (s : State) : (s.begin).clkDrv = s.clkDrv := rfl
@[simp] theorem begin_dioDrv (s : State) : (s.begin).dioDrv = s.dioDrv := rfl
@[simp] theorem begin_ctl (s : State) : (s.begin).ctl = s.ctl := rfl
@[simp] theorem begin_buf (s : State) : (s.begin).buf = s.buf := rfl
@[simp] theorem begin_lastAck (s : State) : (s.begin).lastAck = s.lastAck := rfl
@[simp] theorem begin_ackMiss (s : State) : (s.begin).ackMiss = s.ackMiss := rfl
@[simp] theorem begin_rspStatus (s : State) : (s.begin).rspStatus = s.rspStatus := rfl
@[simp] theorem begin_rspAck (s : State) : (s.begin).rspAck = s.rspAck := rfl
@[simp] theorem begin_rspValid (s : State) : (s.begin).rspValid = s.rspValid := rfl
@[simp] theorem begin_samples (s : State) : (s.begin).samples = [] := rfl
@[simp] theorem begin_trace (s : State) : (s.begin).trace = s.trace := rfl
@[simp] theorem begin_rx (s : State) : (s.begin).rx = s.rx := rfl
@[simp] theorem begin_env (s : State) : (s.begin).env = s.env := rfl
@[simp] theorem begin_host (s : State) : (s.begin).host = s.host := rfl

/-! ### `State.drive` -/

@[simp] theorem drive_sess (s : State) (c d : Option Drive) : (s.drive c d).sess = s.sess := rfl
@[simp] theorem drive_bus (s : State) (c d : Option Drive) : (s.drive c d).bus = s.bus := rfl
@[simp] theorem drive_seq (s : State) (c d : Option Drive) : (s.drive c d).seq = s.seq := rfl
@[simp] theorem drive_clkDrv (s : State) (c d : Option Drive) : (s.drive c d).clkDrv = c.getD s.clkDrv := rfl
@[simp] theorem drive_dioDrv (s : State) (c d : Option Drive) : (s.drive c d).dioDrv = d.getD s.dioDrv := rfl
@[simp] theorem drive_ctl (s : State) (c d : Option Drive) : (s.drive c d).ctl = s.ctl := rfl
@[simp] theorem drive_buf (s : State) (c d : Option Drive) : (s.drive c d).buf = s.buf := rfl
@[simp] theorem drive_lastAck (s : State) (c d : Option Drive) : (s.drive c d).lastAck = s.lastAck := rfl
@[simp] theorem drive_ackMiss (s : State) (c d : Option Drive) : (s.drive c d).ackMiss = s.ackMiss := rfl
@[simp] theorem drive_rspStatus (s : State) (c d : Option Drive) : (s.drive c d).rspStatus = s.rspStatus := rfl
@[simp] theorem drive_rspAck (s : State) (c d : Option Drive) : (s.drive c d).rspAck = s.rspAck := rfl
@[simp] theorem drive_rspValid (s : State) (c d : Option Drive) : (s.drive c d).rspValid = s.rspValid := rfl
@[simp] theorem drive_samples (s : State) (c d : Option Drive) : (s.drive c d).samples = s.samples := rfl
@[simp] theorem drive_trace (s : State) (c d : Option Drive) : (s.drive c d).trace = s.trace ++ [.ph (c.getD s.clkDrv) (d.getD s.dioDrv)] := rfl
@[simp] theorem drive_rx (s : State) (c d : Option Drive) : (s.drive c d).rx = s.rx.hear s.clkDrv s.dioDrv (c.getD s.clkDrv) (d.getD s.dioDrv) := rfl
@[simp] theorem drive_env (s : State) (c d : Option Drive) : (s.drive c d).env = s.env := rfl
@[simp] theorem drive_host (s : State) (c d : Option Drive) : (s.drive c d).host = s.host := rfl

/-! ### `State.sampleDio` -/

@[simp] theorem sampleDio_sess (s : State) : (s.sampleDio).sess = s.sess := rfl
@[simp] theorem sampleDio_bus (s : State) : (s.sampleDio).bus = s.bus := rfl
@[simp] theorem sampleDio_seq (s : State) : (s.sampleDio).seq = s.seq := rfl
@[simp] theorem sampleDio_clkDrv (s : State) : (s.sampleDio).clkDrv = s.clkDrv := rfl
@[simp] theorem sampleDio_dioDrv (s : State) : (s.sampleDio).dioDrv = s.dioDrv := rfl
@[simp] theorem sampleDio_ctl (s : State) : (s.sampleDio).ctl = s.ctl := rfl
@[simp] theorem sampleDio_buf (s : State) : (s.sampleDio).buf = s.buf := rfl
@[simp] theorem sampleDio_lastAck (s : State) : (s.sampleDio).lastAck = s.lastAck := rfl
@[simp] theorem sampleDio_ackMiss (s : State) : (s.sampleDio).ackMiss = s.ackMiss := rfl
@[simp] theorem sampleDio_rspStatus (s : State) : (s.sampleDio).rspStatus = s.rspStatus := rfl
@[simp] theorem sampleDio_rspAck (s : State) : (s.sampleDio).rspAck = s.rspAck := rfl
@[simp] theorem sampleDio_rspValid (s : State) : (s.sampleDio).rspValid = s.rspValid := rfl
@[simp] theorem sampleDio_samples (s : State) : (s.sampleDio).samples = s.samples ++ [s.env.dioIn] := rfl
@[simp] theorem sampleDio_trace (s : State) : (s.sampleDio).trace = s.trace ++ [.smp s.env.dioIn] := rfl
@[simp] theorem sampleDio_rx (s : State) : (s.sampleDio).rx = s.rx := rfl
@[simp] theorem sampleDio_env (s : State) : (s.sampleDio).env = s.env.afterDio := rfl
@[simp] theorem sampleDio_host (s : State) : (s.sampleDio).host = s.host := rfl

/-! ### `State.latchAck` -/

@[simp] theorem latchAck_sess (s : State) : (s.latchAck).sess = s.sess := rfl
@[simp] theorem latchAck_bus (s : State) : (s.latchAck).bus = s.bus := rfl
@[simp] theorem latchAck_seq (s : State) : (s.latchAck).seq = s.seq := rfl
@[simp] theorem latchAck_clkDrv (s : State) : (s.latchAck).clkDrv = s.clkDrv := rfl
@[simp] theorem latchAck_dioDrv (s : State) : (s.latchAck).dioDrv = s.dioDrv := rfl
@[simp] theorem latchAck_ctl (s : State) : (s.latchAck).ctl = s.ctl := rfl
@[simp] theorem latchAck_buf (s : State) : (s.latchAck).buf = s.buf := rfl
@[simp] theorem latchAck_lastAck (s : State) : (s.latchAck).lastAck = lastAckOf s.samples := rfl
@[simp] theorem latchAck_ackMiss (s : State) : (s.latchAck).ackMiss = (s.ackMiss || !lastAckOf s.samples) := rfl
@[simp] theorem latchAck_rspStatus (s : State) : (s.latchAck).rspStatus = s.rspStatus := rfl
@[simp] theorem latchAck_rspAck (s : State) : (s.latchAck).rspAck = s.rspAck := rfl
@[simp] theorem latchAck_rspValid (s : State) : (s.latchAck).rspValid = s.rspValid := rfl
@[simp] theorem latchAck_samples (s : State) : (s.latchAck).samples = s.samples := rfl
@[simp] theorem latchAck_trace (s : State) : (s.latchAck).trace = s.trace := rfl
@[simp] theorem latchAck_rx (s : State) : (s.latchAck).rx = s.rx := rfl
@[simp] theorem latchAck_env (s : State) : (s.latchAck).env = s.env := rfl
@[simp] theorem latchAck_host (s : State) : (s.latchAck).host = s.host := rfl

/-! ### `State.respond` -/

@[simp] theorem respond_sess (s : State) (c : Status) (a : Bool) : (s.respond c a).sess = s.sess := rfl
@[simp] theorem respond_bus (s : State) (c : Status) (a : Bool) : (s.respond c a).bus = s.bus := rfl
@[simp] theorem respond_seq (s : State) (c : Status) (a : Bool) : (s.respond c a).seq = .rest := rfl
@[simp] theorem respond_clkDrv (s : State) (c : Status) (a : Bool) : (s.respond c a).clkDrv = s.clkDrv := rfl
@[simp] theorem respond_dioDrv (s : State) (c : Status) (a : Bool) : (s.respond c a).dioDrv = s.dioDrv := rfl
@[simp] theorem respond_ctl (s : State) (c : Status) (a : Bool) : (s.respond c a).ctl = s.ctl := rfl
@[simp] theorem respond_buf (s : State) (c : Status) (a : Bool) : (s.respond c a).buf = s.buf := rfl
@[simp] theorem respond_lastAck (s : State) (c : Status) (a : Bool) : (s.respond c a).lastAck = s.lastAck := rfl
@[simp] theorem respond_ackMiss (s : State) (c : Status) (a : Bool) : (s.respond c a).ackMiss = s.ackMiss := rfl
@[simp] theorem respond_rspStatus (s : State) (c : Status) (a : Bool) : (s.respond c a).rspStatus = c := rfl
@[simp] theorem respond_rspAck (s : State) (c : Status) (a : Bool) : (s.respond c a).rspAck = a := rfl
@[simp] theorem respond_rspValid (s : State) (c : Status) (a : Bool) : (s.respond c a).rspValid = true := rfl
@[simp] theorem respond_samples (s : State) (c : Status) (a : Bool) : (s.respond c a).samples = s.samples := rfl
@[simp] theorem respond_trace (s : State) (c : Status) (a : Bool) : (s.respond c a).trace = s.trace := rfl
@[simp] theorem respond_rx (s : State) (c : Status) (a : Bool) : (s.respond c a).rx = s.rx := rfl
@[simp] theorem respond_env (s : State) (c : Status) (a : Bool) : (s.respond c a).env = s.env := rfl
@[simp] theorem respond_host (s : State) (c : Status) (a : Bool) : (s.respond c a).host = s.host := rfl

/-! ### `State.raise` -/

@[simp] theorem raise_sess (s : State) (c : Status) : (s.raise c).sess = s.sess := rfl
@[simp] theorem raise_bus (s : State) (c : Status) : (s.raise c).bus = s.bus := rfl
@[simp] theorem raise_seq (s : State) (c : Status) : (s.raise c).seq = .rest := rfl
@[simp] theorem raise_clkDrv (s : State) (c : Status) : (s.raise c).clkDrv = s.clkDrv := rfl
@[simp] theorem raise_dioDrv (s : State) (c : Status) : (s.raise c).dioDrv = s.dioDrv := rfl
@[simp] theorem raise_ctl (s : State) (c : Status) : (s.raise c).ctl = s.ctl := rfl
@[simp] theorem raise_buf (s : State) (c : Status) : (s.raise c).buf = s.buf := rfl
@[simp] theorem raise_lastAck (s : State) (c : Status) : (s.raise c).lastAck = s.lastAck := rfl
@[simp] theorem raise_ackMiss (s : State) (c : Status) : (s.raise c).ackMiss = s.ackMiss := rfl
@[simp] theorem raise_rspStatus (s : State) (c : Status) : (s.raise c).rspStatus = c := rfl
@[simp] theorem raise_rspAck (s : State) (c : Status) : (s.raise c).rspAck = true := rfl
@[simp] theorem raise_rspValid (s : State) (c : Status) : (s.raise c).rspValid = true := rfl
@[simp] theorem raise_samples (s : State) (c : Status) : (s.raise c).samples = s.samples := rfl
@[simp] theorem raise_trace (s : State) (c : Status) : (s.raise c).trace = s.trace := rfl
@[simp] theorem raise_rx (s : State) (c : Status) : (s.raise c).rx = s.rx := rfl
@[simp] theorem raise_env (s : State) (c : Status) : (s.raise c).env = s.env := rfl
@[simp] theorem raise_host (s : State) (c : Status) : (s.raise c).host = s.host := rfl

/-! ### `State.constructed` -/

@[simp] theorem constructed_sess (s : State) : (s.constructed).sess = .idle := rfl
@[simp] theorem constructed_bus (s : State) : (s.constructed).bus = .idle := rfl
@[simp] theorem constructed_seq (s : State) : (s.constructed).seq = s.seq := rfl
@[simp] theorem constructed_clkDrv (s : State) : (s.constructed).clkDrv = s.clkDrv := rfl
@[simp] theorem constructed_dioDrv (s : State) : (s.constructed).dioDrv = s.dioDrv := rfl
@[simp] theorem constructed_ctl (s : State) : (s.constructed).ctl = ctlOf Config.resetOn Config.resetBright := rfl
@[simp] theorem constructed_buf (s : State) : (s.constructed).buf = blankQuad := rfl
@[simp] theorem constructed_lastAck (s : State) : (s.constructed).lastAck = true := rfl
@[simp] theorem constructed_ackMiss (s : State) : (s.constructed).ackMiss = false := rfl
@[simp] theorem constructed_rspStatus (s : State) : (s.constructed).rspStatus = s.rspStatus := rfl
@[simp] theorem constructed_rspAck (s : State) : (s.constructed).rspAck = s.rspAck := rfl
@[simp] theorem constructed_rspValid (s : State) : (s.constructed).rspValid = s.rspValid := rfl
@[simp] theorem constructed_samples (s : State) : (s.constructed).samples = s.samples := rfl
@[simp] theorem constructed_trace (s : State) : (s.constructed).trace = s.trace := rfl
@[simp] theorem constructed_rx (s : State) : (s.constructed).rx = s.rx := rfl
@[simp] theorem constructed_env (s : State) : (s.constructed).env = s.env := rfl
@[simp] theorem constructed_host (s : State) : (s.constructed).host = s.host := rfl

/-! ### `State.received` -/

@[simp] theorem received_sess (s : State) (r : Receiver) : (s.received r).sess = s.sess := rfl
@[simp] theorem received_bus (s : State) (r : Receiver) : (s.received r).bus = s.bus := rfl
@[simp] theorem received_seq (s : State) (r : Receiver) : (s.received r).seq = s.seq := rfl
@[simp] theorem received_clkDrv (s : State) (r : Receiver) : (s.received r).clkDrv = s.clkDrv := rfl
@[simp] theorem received_dioDrv (s : State) (r : Receiver) : (s.received r).dioDrv = s.dioDrv := rfl
@[simp] theorem received_ctl (s : State) (r : Receiver) : (s.received r).ctl = s.ctl := rfl
@[simp] theorem received_buf (s : State) (r : Receiver) : (s.received r).buf = s.buf := rfl
@[simp] theorem received_lastAck (s : State) (r : Receiver) : (s.received r).lastAck = s.lastAck := rfl
@[simp] theorem received_ackMiss (s : State) (r : Receiver) : (s.received r).ackMiss = s.ackMiss := rfl
@[simp] theorem received_rspStatus (s : State) (r : Receiver) : (s.received r).rspStatus = s.rspStatus := rfl
@[simp] theorem received_rspAck (s : State) (r : Receiver) : (s.received r).rspAck = s.rspAck := rfl
@[simp] theorem received_rspValid (s : State) (r : Receiver) : (s.received r).rspValid = s.rspValid := rfl
@[simp] theorem received_samples (s : State) (r : Receiver) : (s.received r).samples = s.samples := rfl
@[simp] theorem received_trace (s : State) (r : Receiver) : (s.received r).trace = s.trace := rfl
@[simp] theorem received_rx (s : State) (r : Receiver) : (s.received r).rx = r.done := rfl
@[simp] theorem received_env (s : State) (r : Receiver) : (s.received r).env = s.env := rfl
@[simp] theorem received_host (s : State) (r : Receiver) : (s.received r).host = s.host := rfl

/-! ### `State.tick` -/

@[simp] theorem tick_sess (s : State) : (s.tick).sess = s.sess := rfl
@[simp] theorem tick_bus (s : State) : (s.tick).bus = s.bus := rfl
@[simp] theorem tick_seq (s : State) : (s.tick).seq = s.seq := rfl
@[simp] theorem tick_clkDrv (s : State) : (s.tick).clkDrv = s.clkDrv := rfl
@[simp] theorem tick_dioDrv (s : State) : (s.tick).dioDrv = s.dioDrv := rfl
@[simp] theorem tick_ctl (s : State) : (s.tick).ctl = s.ctl := rfl
@[simp] theorem tick_buf (s : State) : (s.tick).buf = s.buf := rfl
@[simp] theorem tick_lastAck (s : State) : (s.tick).lastAck = s.lastAck := rfl
@[simp] theorem tick_ackMiss (s : State) : (s.tick).ackMiss = s.ackMiss := rfl
@[simp] theorem tick_rspStatus (s : State) : (s.tick).rspStatus = s.rspStatus := rfl
@[simp] theorem tick_rspAck (s : State) : (s.tick).rspAck = s.rspAck := rfl
@[simp] theorem tick_rspValid (s : State) : (s.tick).rspValid = false := rfl
@[simp] theorem tick_samples (s : State) : (s.tick).samples = s.samples := rfl
@[simp] theorem tick_trace (s : State) : (s.tick).trace = s.trace := rfl
@[simp] theorem tick_rx (s : State) : (s.tick).rx = s.rx := rfl
@[simp] theorem tick_env (s : State) : (s.tick).env = s.env := rfl
@[simp] theorem tick_host (s : State) : (s.tick).host = s.host := rfl

/-! ### `State.hostThen` -/

@[simp] theorem hostThen_sess (s : State) (evs : List HostEvent) : (s.hostThen evs).sess = s.sess := rfl
@[simp] theorem hostThen_bus (s : State) (evs : List HostEvent) : (s.hostThen evs).bus = s.bus := rfl
@[simp] theorem hostThen_seq (s : State) (evs : List HostEvent) : (s.hostThen evs).seq = s.seq := rfl
@[simp] theorem hostThen_clkDrv (s : State) (evs : List HostEvent) : (s.hostThen evs).clkDrv = s.clkDrv := rfl
@[simp] theorem hostThen_dioDrv (s : State) (evs : List HostEvent) : (s.hostThen evs).dioDrv = s.dioDrv := rfl
@[simp] theorem hostThen_ctl (s : State) (evs : List HostEvent) : (s.hostThen evs).ctl = s.ctl := rfl
@[simp] theorem hostThen_buf (s : State) (evs : List HostEvent) : (s.hostThen evs).buf = s.buf := rfl
@[simp] theorem hostThen_lastAck (s : State) (evs : List HostEvent) : (s.hostThen evs).lastAck = s.lastAck := rfl
@[simp] theorem hostThen_ackMiss (s : State) (evs : List HostEvent) : (s.hostThen evs).ackMiss = s.ackMiss := rfl
@[simp] theorem hostThen_rspStatus (s : State) (evs : List HostEvent) : (s.hostThen evs).rspStatus = s.rspStatus := rfl
@[simp] theorem hostThen_rspAck (s : State) (evs : List HostEvent) : (s.hostThen evs).rspAck = s.rspAck := rfl
@[simp] theorem hostThen_rspValid (s : State) (evs : List HostEvent) : (s.hostThen evs).rspValid = s.rspValid := rfl
@[simp] theorem hostThen_samples (s : State) (evs : List HostEvent) : (s.hostThen evs).samples = s.samples := rfl
@[simp] theorem hostThen_trace (s : State) (evs : List HostEvent) : (s.hostThen evs).trace = s.trace := rfl
@[simp] theorem hostThen_rx (s : State) (evs : List HostEvent) : (s.hostThen evs).rx = s.rx := rfl
@[simp] theorem hostThen_env (s : State) (evs : List HostEvent) : (s.hostThen evs).env = s.env := rfl
@[simp] theorem hostThen_host (s : State) (evs : List HostEvent) : (s.hostThen evs).host = evs := rfl

/-! ### `State.accept` -/

@[simp] theorem accept_sess (s : State) (evs : List HostEvent) : (s.accept evs).sess = s.sess := rfl
@[simp] theorem accept_bus (s : State) (evs : List HostEvent) : (s.accept evs).bus = s.bus := rfl
@[simp] theorem accept_seq (s : State) (evs : List HostEvent) : (s.accept evs).seq = s.seq := rfl
@[simp] theorem accept_clkDrv (s : State) (evs : List HostEvent) : (s.accept evs).clkDrv = s.clkDrv := rfl
@[simp] theorem accept_dioDrv (s : State) (evs : List HostEvent) : (s.accept evs).dioDrv = s.dioDrv := rfl
@[simp] theorem accept_ctl (s : State) (evs : List HostEvent) : (s.accept evs).ctl = s.ctl := rfl
@[simp] theorem accept_buf (s : State) (evs : List HostEvent) : (s.accept evs).buf = s.buf := rfl
@[simp] theorem accept_lastAck (s : State) (evs : List HostEvent) : (s.accept evs).lastAck = s.lastAck := rfl
@[simp] theorem accept_ackMiss (s : State) (evs : List HostEvent) : (s.accept evs).ackMiss = s.ackMiss := rfl
@[simp] theorem accept_rspStatus (s : State) (evs : List HostEvent) : (s.accept evs).rspStatus = s.rspStatus := rfl
@[simp] theorem accept_rspAck (s : State) (evs : List HostEvent) : (s.accept evs).rspAck = s.rspAck := rfl
@[simp] theorem accept_rspValid (s : State) (evs : List HostEvent) : (s.accept evs).rspValid = false := rfl
@[simp] theorem accept_samples (s : State) (evs : List HostEvent) : (s.accept evs).samples = s.samples := rfl
@[simp] theorem accept_trace (s : State) (evs : List HostEvent) : (s.accept evs).trace = s.trace := rfl
@[simp] theorem accept_rx (s : State) (evs : List HostEvent) : (s.accept evs).rx = s.rx := rfl
@[simp] theorem accept_env (s : State) (evs : List HostEvent) : (s.accept evs).env = s.env := rfl
@[simp] theorem accept_host (s : State) (evs : List HostEvent) : (s.accept evs).host = evs := rfl

/-! ### `State.takeFrame` -/

@[simp] theorem takeFrame_sess (s : State) (ds : List Byte) (fs : List (List Byte)) : (s.takeFrame ds fs).sess = s.sess := rfl
@[simp] theorem takeFrame_bus (s : State) (ds : List Byte) (fs : List (List Byte)) : (s.takeFrame ds fs).bus = s.bus := rfl
@[simp] theorem takeFrame_seq (s : State) (ds : List Byte) (fs : List (List Byte)) : (s.takeFrame ds fs).seq = s.seq := rfl
@[simp] theorem takeFrame_clkDrv (s : State) (ds : List Byte) (fs : List (List Byte)) : (s.takeFrame ds fs).clkDrv = s.clkDrv := rfl
@[simp] theorem takeFrame_dioDrv (s : State) (ds : List Byte) (fs : List (List Byte)) : (s.takeFrame ds fs).dioDrv = s.dioDrv := rfl
@[simp] theorem takeFrame_ctl (s : State) (ds : List Byte) (fs : List (List Byte)) : (s.takeFrame ds fs).ctl = s.ctl := rfl
@[simp] theorem takeFrame_buf (s : State) (ds : List Byte) (fs : List (List Byte)) : (s.takeFrame ds fs).buf = s.buf := rfl
@[simp] theorem takeFrame_lastAck (s : State) (ds : List Byte) (fs : List (List Byte)) : (s.takeFrame ds fs).lastAck = s.lastAck := rfl
@[simp] theorem takeFrame_ackMiss (s : State) (ds : List Byte) (fs : List (List Byte)) : (s.takeFrame ds fs).ackMiss = s.ackMiss := rfl
@[simp] theorem takeFrame_rspStatus (s : State) (ds : List Byte) (fs : List (List Byte)) : (s.takeFrame ds fs).rspStatus = s.rspStatus := rfl
@[simp] theorem takeFrame_rspAck (s : State) (ds : List Byte) (fs : List (List Byte)) : (s.takeFrame ds fs).rspAck = s.rspAck := rfl
@[simp] theorem takeFrame_rspValid (s : State) (ds : List Byte) (fs : List (List Byte)) : (s.takeFrame ds fs).rspValid = false := rfl
@[simp] theorem takeFrame_samples (s : State) (ds : List Byte) (fs : List (List Byte)) : (s.takeFrame ds fs).samples = s.samples := rfl
@[simp] theorem takeFrame_trace (s : State) (ds : List Byte) (fs : List (List Byte)) : (s.takeFrame ds fs).trace = s.trace := rfl
@[simp] theorem takeFrame_rx (s : State) (ds : List Byte) (fs : List (List Byte)) : (s.takeFrame ds fs).rx = { s.rx with inbox := fs, args := ds } := rfl
@[simp] theorem takeFrame_env (s : State) (ds : List Byte) (fs : List (List Byte)) : (s.takeFrame ds fs).env = s.env := rfl
@[simp] theorem takeFrame_host (s : State) (ds : List Byte) (fs : List (List Byte)) : (s.takeFrame ds fs).host = s.host := rfl

end Sys2Proof.Machine
end

