-- ==== Sys2Proof/Laws/Phases.lean ====
section
/-! SUPPORT. What running phases does, once per shared operation: any list of phases, a bit cell, an ACK cell, a byte, the
bytes of a frame, a whole frame. -/

namespace Sys2Proof.Machine

@[simp] theorem runPhases_nil (s : State) : s.runPhases [] = s := rfl

@[simp] theorem runPhases_cons (s : State) (p : Phase) (ps : List Phase) :
    s.runPhases (p :: ps) = (s.runPhase p).runPhases ps := rfl

theorem runPhases_append (s : State) (ps qs : List Phase) :
    s.runPhases (ps ++ qs) = (s.runPhases ps).runPhases qs := by
  simp [State.runPhases, List.foldl_append]

/-- What no phase touches. -/
structure SameOutside (s t : State) : Prop where
  sess : t.sess = s.sess
  seq : t.seq = s.seq
  ctl : t.ctl = s.ctl
  buf : t.buf = s.buf
  rspStatus : t.rspStatus = s.rspStatus
  rspAck : t.rspAck = s.rspAck
  rspValid : t.rspValid = s.rspValid
  host : t.host = s.host

theorem SameOutside.trans {s t u : State} (h : SameOutside s t) (k : SameOutside t u) : SameOutside s u := by
  constructor <;> simp [h.sess, k.sess, h.seq, k.seq, h.ctl, k.ctl, h.buf, k.buf, h.rspStatus, k.rspStatus, h.rspAck, k.rspAck,
    h.rspValid, k.rspValid, h.host, k.host]

theorem runPhase_sameOutside (s : State) (p : Phase) : SameOutside s (s.runPhase p) := by
  obtain ⟨part, f, k, i, c, d, smp, e⟩ := p
  cases smp <;> cases e <;> constructor <;> rfl

theorem runPhases_sameOutside (s : State) (ps : List Phase) : SameOutside s (s.runPhases ps) := by
  induction ps generalizing s with
  | nil => constructor <;> rfl
  | cons p ps ih => exact (runPhase_sameOutside s p).trans (ih (s.runPhase p))

/-- The bits of a byte, read back least significant bit first, are the byte (R51). -/
theorem byteOfBits_bits (v : Byte) :
    byteOfBits [v.getLsbD 0, v.getLsbD 1, v.getLsbD 2, v.getLsbD 3, v.getLsbD 4, v.getLsbD 5, v.getLsbD 6, v.getLsbD 7] = v := by
  revert v; decide +kernel

/-! ### The one shape of what phases do

Every result below is `wired`: the lines, the bus, the ACK samples taken, the environment, the events emitted and the receiver.
Two of them in a row are one. -/

/-- A receiver at another place of its scan. -/
def Receiver.scanAt (r : Receiver) (scan : Scan) : Receiver := { r with scan := scan }

/-- A receiver whose inbox has grown. -/
def Receiver.gets (r : Receiver) (fs : List (List Byte)) : Receiver := { r with inbox := r.inbox ++ fs }

@[simp] theorem scanAt_scan (r : Receiver) (x : Scan) : (r.scanAt x).scan = x := rfl
@[simp] theorem scanAt_inbox (r : Receiver) (x : Scan) : (r.scanAt x).inbox = r.inbox := rfl
@[simp] theorem scanAt_args (r : Receiver) (x : Scan) : (r.scanAt x).args = r.args := rfl
@[simp] theorem scanAt_mode (r : Receiver) (x : Scan) : (r.scanAt x).mode = r.mode := rfl
@[simp] theorem scanAt_mem (r : Receiver) (x : Scan) : (r.scanAt x).mem = r.mem := rfl
@[simp] theorem scanAt_on (r : Receiver) (x : Scan) : (r.scanAt x).on = r.on := rfl
@[simp] theorem scanAt_bright (r : Receiver) (x : Scan) : (r.scanAt x).bright = r.bright := rfl
@[simp] theorem gets_scan (r : Receiver) (fs : List (List Byte)) : (r.gets fs).scan = r.scan := rfl
@[simp] theorem gets_inbox (r : Receiver) (fs : List (List Byte)) : (r.gets fs).inbox = r.inbox ++ fs := rfl
@[simp] theorem gets_args (r : Receiver) (fs : List (List Byte)) : (r.gets fs).args = r.args := rfl
@[simp] theorem gets_mode (r : Receiver) (fs : List (List Byte)) : (r.gets fs).mode = r.mode := rfl
@[simp] theorem gets_mem (r : Receiver) (fs : List (List Byte)) : (r.gets fs).mem = r.mem := rfl
@[simp] theorem gets_on (r : Receiver) (fs : List (List Byte)) : (r.gets fs).on = r.on := rfl
@[simp] theorem gets_bright (r : Receiver) (fs : List (List Byte)) : (r.gets fs).bright = r.bright := rfl

@[simp] theorem scanAt_scanAt (r : Receiver) (x y : Scan) : (r.scanAt x).scanAt y = r.scanAt y := rfl

@[simp] theorem scanAt_gets (r : Receiver) (x y : Scan) (fs : List (List Byte)) :
    ((r.scanAt x).gets fs).scanAt y = (r.gets fs).scanAt y := rfl

theorem scanAt_self (r : Receiver) (x : Scan) (h : r.scan = x) : r.scanAt x = r := by
  subst h; rfl

@[simp] theorem gets_gets (r : Receiver) (fs gs : List (List Byte)) : (r.gets fs).gets gs = r.gets (fs ++ gs) := by
  simp [Receiver.gets]

/-- The state after phases: lines `(c, d)`, bus `b`, samples `xs` taken, environment `e`, events `evs` emitted, receiver `r`. -/
def State.wired (s : State) (c d : Drive) (b : Bus) (xs : List Level) (e : Env) (evs : List Event) (r : Receiver) : State :=
  { s with
    clkDrv := c
    dioDrv := d
    bus := b
    lastAck := ackAfter s.lastAck xs
    ackMiss := s.ackMiss || !allAcked xs
    samples := s.samples ++ xs
    env := e
    trace := s.trace ++ evs
    rx := r }

section
variable (s : State) (c d : Drive) (b : Bus) (xs : List Level) (e : Env) (evs : List Event) (r : Receiver)
@[simp] theorem wired_sess : (s.wired c d b xs e evs r).sess = s.sess := rfl
@[simp] theorem wired_bus : (s.wired c d b xs e evs r).bus = b := rfl
@[simp] theorem wired_seq : (s.wired c d b xs e evs r).seq = s.seq := rfl
@[simp] theorem wired_clkDrv : (s.wired c d b xs e evs r).clkDrv = c := rfl
@[simp] theorem wired_dioDrv : (s.wired c d b xs e evs r).dioDrv = d := rfl
@[simp] theorem wired_ctl : (s.wired c d b xs e evs r).ctl = s.ctl := rfl
@[simp] theorem wired_buf : (s.wired c d b xs e evs r).buf = s.buf := rfl
@[simp] theorem wired_lastAck : (s.wired c d b xs e evs r).lastAck = ackAfter s.lastAck xs := rfl
@[simp] theorem wired_ackMiss : (s.wired c d b xs e evs r).ackMiss = (s.ackMiss || !allAcked xs) := rfl
@[simp] theorem wired_rspStatus : (s.wired c d b xs e evs r).rspStatus = s.rspStatus := rfl
@[simp] theorem wired_rspAck : (s.wired c d b xs e evs r).rspAck = s.rspAck := rfl
@[simp] theorem wired_rspValid : (s.wired c d b xs e evs r).rspValid = s.rspValid := rfl
@[simp] theorem wired_samples : (s.wired c d b xs e evs r).samples = s.samples ++ xs := rfl
@[simp] theorem wired_trace : (s.wired c d b xs e evs r).trace = s.trace ++ evs := rfl
@[simp] theorem wired_rx : (s.wired c d b xs e evs r).rx = r := rfl
@[simp] theorem wired_env : (s.wired c d b xs e evs r).env = e := rfl
@[simp] theorem wired_host : (s.wired c d b xs e evs r).host = s.host := rfl
end

@[simp] theorem ackAfter_nil (a : Bool) : ackAfter a [] = a := rfl

theorem ackAfter_append (a : Bool) (xs ys : List Level) : ackAfter a (xs ++ ys) = ackAfter (ackAfter a xs) ys := by
  rcases List.eq_nil_or_concat ys with rfl | ⟨zs, y, rfl⟩
  · simp
  · simp [ackAfter, ← List.append_assoc]

@[simp] theorem allAcked_nil : allAcked [] = true := rfl

theorem allAcked_append (xs ys : List Level) : allAcked (xs ++ ys) = (allAcked xs && allAcked ys) := by
  simp [allAcked]

theorem wired_wired (s : State) (c d c' d' : Drive) (b b' : Bus) (xs xs' : List Level) (e e' : Env) (evs evs' : List Event)
    (r r' : Receiver) :
    (s.wired c d b xs e evs r).wired c' d' b' xs' e' evs' r' = s.wired c' d' b' (xs ++ xs') e' (evs ++ evs') r' := by
  simp [State.wired, ackAfter_append, allAcked_append, Bool.or_assoc]

/-- Phases that change nothing: an operation of no bytes. -/
theorem wired_self (s : State) : s.wired s.clkDrv s.dioDrv s.bus [] s.env [] s.rx = s := by
  simp [State.wired]

/-! ### The transport's phase tables -/

/-- A bit cell (R106), seen by a receiver that stands inside a byte cell: it takes the bit. -/
theorem runPhases_bitCell (s : State) (f k i : Nat) (x : Bool) (bits : List Bool) (bytes : List Byte)
    (hs : s.rx.scan = .inFrame bits bytes) (hb : bits.length < 8) :
    s.runPhases (bitCell f k i x) =
      s.wired .h (bitDrive x) s.bus [] s.env [.ph .l s.dioDrv, .ph .l (bitDrive x), .ph .h (bitDrive x)]
        (s.rx.scanAt (.inFrame (bits ++ [x]) bytes)) := by
  cases x <;>
    simp [bitCell, plainPhase, State.runPhase, State.applyEffect, State.drive, Receiver.hear, scanStep, hs, isStart, isStop,
      isRise, clockHigh, clockIn, hb, bitDrive, State.wired, Receiver.scanAt]

/-- The ACK cell (R107) after eight bits, seen by a receiver: the byte is complete. -/
theorem runPhases_ackCell (s : State) (f k : Nat) (bits : List Bool) (bytes : List Byte)
    (hs : s.rx.scan = .inFrame bits bytes) (hb : bits.length = 8) :
    s.runPhases (ackCell f k) =
      s.wired .l .l s.bus [s.env.dioIn] s.env.afterDio
        [.ph .l s.dioDrv, .ph .l .z, .ph .h .z, .smp s.env.dioIn, .ph .l .z, .ph .l .l]
        (s.rx.scanAt (.inFrame [] (bytes ++ [byteOfBits bits]))) := by
  simp [ackCell, plainPhase, State.runPhase, State.applyEffect, State.drive, State.sampleDio, State.latchAck, lastAckOf, ackOf,
    Receiver.hear, scanStep, hs, isStart, isStop, isRise, clockHigh, clockIn, hb, State.wired, Receiver.scanAt, ackAfter, allAcked]

/-- WRITEBYTE's phases (R107) from DATA driven at `s.dioDrv`, seen by a receiver at the start of a byte cell. -/
theorem runPhases_write (s : State) (f k : Nat) (v : Byte) (bytes : List Byte) (hs : s.rx.scan = .inFrame [] bytes) :
    s.runPhases (writePhases f k v) =
      s.wired .l .l s.bus [s.env.dioIn] s.env.afterDio (writeByteEvents s.dioDrv v s.env.dioIn)
        (s.rx.scanAt (.inFrame [] (bytes ++ [v]))) := by
  simp only [writePhases, runPhases_append]
  rw [runPhases_bitCell s f k 0 _ [] bytes hs (by simp)]
  rw [runPhases_bitCell _ f k 1 _ [v.getLsbD 0] bytes rfl (by simp), wired_wired]
  rw [runPhases_bitCell _ f k 2 _ [v.getLsbD 0, v.getLsbD 1] bytes rfl (by simp), wired_wired]
  rw [runPhases_bitCell _ f k 3 _ [v.getLsbD 0, v.getLsbD 1, v.getLsbD 2] bytes rfl (by simp), wired_wired]
  rw [runPhases_bitCell _ f k 4 _ [v.getLsbD 0, v.getLsbD 1, v.getLsbD 2, v.getLsbD 3] bytes rfl (by simp), wired_wired]
  rw [runPhases_bitCell _ f k 5 _ [v.getLsbD 0, v.getLsbD 1, v.getLsbD 2, v.getLsbD 3, v.getLsbD 4] bytes rfl (by simp), wired_wired]
  rw [runPhases_bitCell _ f k 6 _ [v.getLsbD 0, v.getLsbD 1, v.getLsbD 2, v.getLsbD 3, v.getLsbD 4, v.getLsbD 5] bytes rfl (by simp), wired_wired]
  rw [runPhases_bitCell _ f k 7 _ [v.getLsbD 0, v.getLsbD 1, v.getLsbD 2, v.getLsbD 3, v.getLsbD 4, v.getLsbD 5, v.getLsbD 6] bytes rfl (by simp), wired_wired]
  rw [runPhases_ackCell _ f k [v.getLsbD 0, v.getLsbD 1, v.getLsbD 2, v.getLsbD 3, v.getLsbD 4, v.getLsbD 5, v.getLsbD 6, v.getLsbD 7] bytes rfl (by simp), wired_wired, byteOfBits_bits]
  rfl

/-- The byte cells of a frame (R76), from DATA low. -/
theorem runPhases_bytes (s : State) (f k : Nat) (vs bytes : List Byte) (hs : s.rx.scan = .inFrame [] bytes)
    (hd : s.dioDrv = .l) :
    s.runPhases (bytePhases f k vs) =
      s.wired (if vs = [] then s.clkDrv else .l) .l s.bus (s.env.levels vs.length) (s.env.afterDios vs.length)
        (bytesEvents vs (s.env.levels vs.length)) (s.rx.scanAt (.inFrame [] (bytes ++ vs))) := by
  induction vs generalizing s k bytes with
  | nil =>
    rw [List.append_nil, scanAt_self _ _ hs]
    simpa [hd, bytePhases, Env.levels, Env.afterDios, bytesEvents] using (wired_self s).symm
  | cons v vs ih =>
    rw [bytePhases, runPhases_append, runPhases_write s f k v bytes hs, ih _ (k + 1) (bytes ++ [v]) rfl rfl, wired_wired, hd]
    simp [Env.levels, Env.afterDios, bytesEvents]

/-- STOP's phases (R110) inside a frame, from CLOCK at `s.clkDrv` and DATA low: the frame is closed. -/
theorem runPhases_stop (s : State) (f k : Nat) (bits : List Bool) (bytes : List Byte)
    (hs : s.rx.scan = .inFrame bits bytes) (hb : bits.length < 8) (hd : s.dioDrv = .l) :
    s.runPhases (stopPhases f k) =
      s.wired .h .h .idle [] s.env [.ph .l .l, .ph .l .l, .ph .h .l, .ph .h .h] ((s.rx.gets [bytes]).scanAt .idle) := by
  simp [stopPhases, plainPhase, State.runPhase, State.applyEffect, State.drive, Receiver.hear, scanStep, hs, isStart, isStop,
    isRise, clockHigh, clockIn, hb, hd, State.wired, Receiver.gets, Receiver.scanAt]

/-- START's phase (R105) from idle lines: a frame is open. -/
theorem runPhases_start (s : State) (f : Nat) (hs : s.rx.scan = .idle) (hc : s.clkDrv = .h) (hd : s.dioDrv = .h) :
    s.runPhases (startPhases f) = s.wired .h .l .frame [] s.env [.ph .h .l] (s.rx.scanAt (.inFrame [] [])) := by
  simp [startPhases, plainPhase, State.runPhase, State.applyEffect, State.drive, Receiver.hear, scanStep, hs, isStart, clockHigh,
    hc, hd, State.wired, Receiver.scanAt]

/-- A frame (R76) from idle lines: it joins the receiver's inbox, whatever the samples read. -/
theorem runPhases_frame (s : State) (f : Nat) (vs : List Byte) (hs : s.rx.scan = .idle) (hc : s.clkDrv = .h)
    (hd : s.dioDrv = .h) :
    s.runPhases (framePhases f vs) =
      s.wired .h .h .idle (s.env.levels vs.length) (s.env.afterDios vs.length) (frameEvents vs (s.env.levels vs.length))
        (s.rx.gets [vs]) := by
  rw [framePhases, runPhases_append, runPhases_append, runPhases_start s f hs hc hd,
    runPhases_bytes _ f 0 vs [] rfl rfl, wired_wired, runPhases_stop _ f _ [] vs rfl (by simp) rfl, wired_wired]
  have hr : (((s.rx.scanAt (.inFrame [] [])).scanAt (.inFrame [] ([] ++ vs))).gets [vs]).scanAt .idle = s.rx.gets [vs] := by
    simp [scanAt_self (s.rx.gets [vs]) .idle hs]
  simp only [wired_rx, hr]
  simp [frameEvents]

end Sys2Proof.Machine
end

