-- ==== Sys2Proof/Laws/Receiver.lean ====
section
/-! SUPPORT. What hearing the wire does to the receiver, and what a phase does to the receiver, in every state: the scanner goes where
`scanStep` says, and the display registers stay or are forgotten. -/

namespace Sys2Proof.Machine

/-- Everything hearing one change of the lines can do (R58, R59). -/
theorem hear_cases (rx : Receiver) (c d c' d' : Drive) :
    (rx.hear c d c' d').scan = (scanStep rx.scan c d c' d').1 ∧ (rx.hear c d c' d').args = rx.args ∧
    (((rx.hear c d c' d').mem = rx.mem ∧ (rx.hear c d c' d').mode = rx.mode ∧ (rx.hear c d c' d').on = rx.on ∧
        (rx.hear c d c' d').bright = rx.bright) ∨
      ((scanStep rx.scan c d c' d').2 = .lost ∧ (rx.hear c d c' d').mem = [])) := by
  unfold Receiver.hear
  rcases scanStep rx.scan c d c' d' with ⟨scan, _ | _ | _⟩ <;> simp [Receiver.forget]

/-- The scanner reads its own place and the lines, nothing else of the receiver (R59). -/
@[simp] theorem hear_scan (rx : Receiver) (c d c' d' : Drive) :
    (rx.hear c d c' d').scan = (scanStep rx.scan c d c' d').1 := (hear_cases rx c d c' d').1

/-- Hearing the wire keeps the canonical form of the display registers. -/
theorem wf_hear (rx : Receiver) (c d c' d' : Drive) (h : Memory.wf rx.mem = true) :
    Memory.wf (rx.hear c d c' d').mem = true := by
  rcases (hear_cases rx c d c' d').2.2 with ⟨hm, _⟩ | ⟨_, hm⟩ <;> rw [hm]
  · exact h
  · rfl

/-- One phase moves the lines, emits its events and lets the receiver hear them; nothing else of the receiver moves (R101, R104). -/
theorem runPhase_wire (s : State) (p : Phase) :
    (s.runPhase p).clkDrv = p.clk.getD s.clkDrv ∧ (s.runPhase p).dioDrv = p.dio.getD s.dioDrv ∧
    (s.runPhase p).rx = s.rx.hear s.clkDrv s.dioDrv (p.clk.getD s.clkDrv) (p.dio.getD s.dioDrv) ∧
    pairsOf (s.runPhase p).trace = pairsOf (s.trace ++ [.ph (p.clk.getD s.clkDrv) (p.dio.getD s.dioDrv)]) := by
  obtain ⟨part, f, k, i, c, d, smp, e⟩ := p
  have happ : ∀ tr u : List Event, ∀ x, pairsOf (tr ++ (u ++ [.smp x])) = pairsOf (tr ++ u) := by
    intro tr u x
    induction tr with
    | nil =>
      induction u with
      | nil => rfl
      | cons w u ih => cases w <;> simpa [pairsOf] using ih
    | cons w tr ih => cases w <;> simpa [pairsOf] using ih
  cases smp <;> cases e <;>
    simp [State.runPhase, State.applyEffect, State.drive, State.sampleDio, State.latchAck] <;>
    exact happ _ [_] _

/-- Pairs and samples of a trace come one after another. -/
theorem pairsOf_append (tr u : List Event) : pairsOf (tr ++ u) = pairsOf tr ++ pairsOf u := by
  induction tr with
  | nil => rfl
  | cons w tr ih => cases w <;> simp [pairsOf, ih]

theorem samplesOf_append (tr u : List Event) : samplesOf (tr ++ u) = samplesOf tr ++ samplesOf u := by
  induction tr with
  | nil => rfl
  | cons w tr ih => cases w <;> simp [samplesOf, ih]

/-- Extraction goes on where it stopped (R59). -/
theorem extractFrom_append (scan : Scan) (c d c' d' : Drive) (ps : List (Drive × Drive)) :
    (extractFrom scan c d (ps ++ [(c', d')])).1 =
      (scanStep (extractFrom scan c d ps).1 ((ps.getLast?).getD (c, d)).1 ((ps.getLast?).getD (c, d)).2 c' d').1 := by
  induction ps generalizing scan c d with
  | nil =>
    simp only [List.nil_append, extractFrom, List.getLast?_nil, Option.getD_none]
    rcases scanStep scan c d c' d' with ⟨x, _ | _ | _⟩ <;> rfl
  | cons p ps ih =>
    obtain ⟨a, b⟩ := p
    have hl : ((((a, b) :: ps).getLast?).getD (c, d)) = ((ps.getLast?).getD (a, b)) := by
      rw [List.getLast?_cons]; rfl
    simp only [List.cons_append, extractFrom, hl]
    rcases scanStep scan c d a b with ⟨x, _ | _ | _⟩ <;> simp only [] <;> exact ih x a b

end Sys2Proof.Machine
end

