-- ==== Sys2Proof/Laws/Ops.lean ====
section
/-! SUPPORT. What the shared operations do: `require` and `raise`, the plans of control operations and display writes from idle
lines, and running a plan whole or phase by phase. -/

namespace Sys2Proof.Machine

/-- A refused operation changes the response only (R204). -/
@[simp] theorem perform_require_false (s : State) (p : Plan) : (Plan.require false s p).perform = s.raise .illegalState := rfl

@[simp] theorem perform_require_true (s : State) (p : Plan) : Plan.require true s p = p := rfl

/-- `ready` and `midFrame` are the `require` lines of R105, R107, R110 and R170. -/
theorem ready_iff (s : State) : s.ready = true ↔ s.sess = .idle ∧ s.bus = .idle := by
  simp [State.ready]

theorem midFrame_iff (s : State) : s.midFrame = true ↔ s.sess = .idle ∧ s.bus = .frame := by
  simp [State.midFrame]

/-- The bytes WRITE_DISPLAY sends (R77, R178). -/
theorem frames_written (buf : Quad) (ctl : BitVec 4) :
    [frameData, frameAddr buf, frameCtrl ctl] = displayFrames buf ctl := by
  have h : encCtrl (ctlOn ctl) (ctlBright ctl) = 0x80#8 ||| ctl.setWidth 8 := by revert ctl; decide
  simp only [frameData, frameAddr, frameCtrl, displayFrames, h]
  rfl

theorem levels_append (m n : Nat) (e : Env) : e.levels (m + n) = e.levels m ++ (e.afterDios m).levels n := by
  induction m generalizing e with
  | zero => simp [Env.levels, Env.afterDios]
  | succ m ih => rw [Nat.add_right_comm]; simp [Env.levels, Env.afterDios, ih]

theorem afterDios_append (m n : Nat) (e : Env) : e.afterDios (m + n) = (e.afterDios m).afterDios n := by
  induction m generalizing e with
  | zero => simp [Env.afterDios]
  | succ m ih => rw [Nat.add_right_comm]; simp [Env.afterDios, ih]

/-- The phases of frames numbered from `f`. -/
def framesPhases : Nat → List (List Byte) → List Phase
  | _, [] => []
  | f, fr :: frs => framePhases f fr ++ framesPhases (f + 1) frs

/-- Frames one after another from idle lines: all of them join the inbox (R61, R76). -/
theorem runPhases_frames (s : State) (f : Nat) (frs : List (List Byte)) (hs : s.rx.scan = .idle) (hc : s.clkDrv = .h)
    (hd : s.dioDrv = .h) (hb : s.bus = .idle) :
    s.runPhases (framesPhases f frs) =
      s.wired .h .h .idle (s.env.levels frs.flatten.length) (s.env.afterDios frs.flatten.length) (framesEvents frs s.env)
        (s.rx.gets frs) := by
  induction frs generalizing s f with
  | nil =>
    have := (wired_self s).symm
    simpa [framesPhases, Env.levels, Env.afterDios, framesEvents, hc, hd, hb, Receiver.gets] using this
  | cons fr frs ih =>
    rw [framesPhases, runPhases_append, runPhases_frame s f fr hs hc hd, ih _ (f + 1) (by simpa using hs) rfl rfl rfl, wired_wired]
    simp [levels_append, afterDios_append, framesEvents]

/-- An operation that sends frames from idle lines and gives the response of R183. -/
theorem perform_frames (s : State) (frs : List (List Byte)) (hs : s.rx.scan = .idle) (hc : s.clkDrv = .h) (hd : s.dioDrv = .h)
    (hb : s.bus = .idle) : (Plan.run s (framesPhases 0 frs) .acks).perform = s.sentFrames frs := by
  have h := runPhases_frames s.begin 0 frs (by simpa using hs) (by simpa using hc) (by simpa using hd) (by simpa using hb)
  simp only [Plan.perform, h]
  simp [State.finish, State.respond, State.sentFrames, State.wired, State.begin, Receiver.gets, ackStatus, hc, hd, hb]

theorem sendCtrlPhases_eq (ctl : BitVec 4) : sendCtrlPhases ctl = framesPhases 0 [frameCtrl ctl] := by
  simp [sendCtrlPhases, framesPhases]

theorem writeDisplayPhases_eq (buf : Quad) (ctl : BitVec 4) :
    writeDisplayPhases buf ctl = framesPhases 0 [frameData, frameAddr buf, frameCtrl ctl] := by
  simp [writeDisplayPhases, framesPhases]

/-- SEND_CTRL as an operation (R177, R183). -/
theorem perform_controlPlan (s : State) (hs : s.rx.scan = .idle) (hc : s.clkDrv = .h) (hd : s.dioDrv = .h) (hb : s.bus = .idle) :
    (controlPlan s).perform = s.sentFrames [[0x80#8 ||| s.ctl.setWidth 8]] := by
  have h : frameCtrl s.ctl = [0x80#8 ||| s.ctl.setWidth 8] := by
    have := frames_written s.buf s.ctl
    simp only [displayFrames, List.cons.injEq] at this
    exact this.2.2.1
  rw [controlPlan, sendCtrlPhases_eq, perform_frames s _ hs hc hd hb, h]

/-- WRITE_DISPLAY as an operation (R178, R183). -/
theorem perform_displayPlan (s : State) (hs : s.rx.scan = .idle) (hc : s.clkDrv = .h) (hd : s.dioDrv = .h) (hb : s.bus = .idle) :
    (displayPlan s).perform = s.sentFrames (displayFrames s.buf s.ctl) := by
  rw [displayPlan, writeDisplayPhases_eq, perform_frames s _ hs hc hd hb, frames_written]

/-- The end of an operation writes these registers and the response, nothing of the lines, the trace or the receiver. -/
theorem finish_wire (s : State) (f : Finish) :
    (s.finish f).clkDrv = s.clkDrv ∧ (s.finish f).dioDrv = s.dioDrv ∧ (s.finish f).trace = s.trace ∧ (s.finish f).rx = s.rx ∧
    (s.finish f).env = s.env ∧ (s.finish f).host = s.host ∧ (s.finish f).seq = .rest := by
  cases f <;> exact ⟨rfl, rfl, rfl, rfl, rfl, rfl, rfl⟩

/-- The registers no phase reads may be set before a phase or after it. -/
theorem runPhase_seq (s : State) (q : Seq) (p : Phase) :
    ({ s with seq := q } : State).runPhase p = { s.runPhase p with seq := q } := by
  obtain ⟨part, f, k, i, c, d, smp, e⟩ := p
  cases smp <;> cases e <;> rfl

theorem runPhases_seq (s : State) (q : Seq) (ps : List Phase) :
    ({ s with seq := q } : State).runPhases ps = { s.runPhases ps with seq := q } := by
  induction ps generalizing s with
  | nil => rfl
  | cons p ps ih => rw [runPhases_cons, runPhase_seq, ih]; rfl

/-- `seq` and `rsp_valid` may be set together before phases or after them. -/
theorem runPhase_running (s : State) (q : Seq) (v : Bool) (p : Phase) :
    ({ s with seq := q, rspValid := v } : State).runPhase p = { s.runPhase p with seq := q, rspValid := v } := by
  obtain ⟨part, f, k, i, c, d, smp, e⟩ := p
  cases smp <;> cases e <;> rfl

theorem runPhases_running (s : State) (q : Seq) (v : Bool) (ps : List Phase) :
    ({ s with seq := q, rspValid := v } : State).runPhases ps = { s.runPhases ps with seq := q, rspValid := v } := by
  induction ps generalizing s with
  | nil => rfl
  | cons p ps ih => rw [runPhases_cons, runPhase_running, ih]; rfl

/-- The end of an operation writes both. -/
theorem finish_running (s : State) (q : Seq) (v : Bool) (f : Finish) :
    ({ s with seq := q, rspValid := v } : State).finish f = s.finish f := by
  cases f <;> rfl

theorem finish_seq (s : State) (q : Seq) (f : Finish) : ({ s with seq := q } : State).finish f = s.finish f := by
  cases f <;> rfl

/-- A phase leaves what the host does next. -/
theorem advance_host (s : State) : s.advance.host = s.host := by
  unfold State.advance
  rcases s.seq with _ | ⟨p, _ | ⟨q, ps⟩, fin⟩
  · rfl
  · exact (finish_wire _ fin).2.2.2.2.2.1.trans (runPhase_sameOutside s p).host
  · exact (runPhase_sameOutside s p).host

/-- The last phase of an operation gives the response, every other phase gives none (R25, R27). -/
theorem advance_rspValid (s : State) (p : Phase) (ps : List Phase) (fin : Finish) (h : s.seq = .busy p ps fin) :
    s.advance.rspValid = ps.isEmpty := by
  unfold State.advance
  rw [h]
  cases ps with
  | nil => cases fin <;> rfl
  | cons q ps => rfl

/-- One phase nearer, the operation ends in the same state (R20). -/
theorem complete_advance (s : State) : s.advance.complete = s.complete := by
  unfold State.advance
  rcases h : s.seq with _ | ⟨p, _ | ⟨q, ps⟩, fin⟩
  · rfl
  · simp only [State.complete, h, (finish_wire (s.runPhase p) fin).2.2.2.2.2.2]
    rfl
  · simp only [State.complete, h, runPhases_cons]
    rw [runPhase_running, runPhases_running, finish_running]

/-- Accepted phase by phase, an operation ends in the state of the whole operation (R20). -/
theorem complete_launch (p : Plan) (h : p.perform.seq = .rest) : p.launch.complete = p.perform := by
  rcases p with ⟨s, c⟩ | ⟨s, _ | ⟨p, ps⟩, fin⟩
  · rfl
  · simp only [Plan.launch, Plan.perform, runPhases_nil] at h ⊢
    simp [State.complete, h]
  · simp only [Plan.launch, Plan.perform, State.complete]
    rw [runPhases_seq, finish_seq]

/-- Every operation ends at REST (R27). -/
theorem perform_seq (p : Plan) : p.perform.seq = .rest := by
  rcases p with ⟨s, c⟩ | ⟨s, ps, fin⟩
  · rfl
  · exact (finish_wire _ fin).2.2.2.2.2.2

end Sys2Proof.Machine
end

