-- ==== Sys2Proof/Laws/PerInstr.lean ====
section
/-! SUPPORT. Per instruction: the words of the instruction have the fixed bits of its row of spec/opcode_table.json. -/

namespace Sys2Proof.Laws

/-- The `match` and `mask` of an instruction's row of the opcode table. -/
def tableRow : Instr → Nat × Nat
  | .construct => (0x200000000000000000000, 0x1E00000000000000000000)
  | .release => (0x400000000000000000000, 0x1E00000000000000000000)
  | .brightness _ => (0x600000000000000000000, 0x1E00000000000000000000)
  | .on => (0x800000000000000000000, 0x1E00000000000000000000)
  | .off => (0xA00000000000000000000, 0x1E00000000000000000000)
  | .showText _ _ => (0xC00000000000000000000, 0x1E00000000000000000000)
  | .numbers _ _ _ => (0xE00000000000000000000, 0x1E00000000000000000000)
  | .clear => (0x1000000000000000000000, 0x1E00000000000000000000)
  | .raw _ => (0x1200000000000000000000, 0x1E00000000000000000000)
  | .start => (0x1400000000000000000000, 0x1E00000000000000000000)
  | .stop => (0x1600000000000000000000, 0x1E00000000000000000000)
  | .writeByte _ => (0x1800000000000000000000, 0x1E00000000000000000000)
  | .reservedOp0 => (0x0, 0x1E00000000000000000000)
  | .reservedOpD => (0x1A00000000000000000000, 0x1E00000000000000000000)
  | .reservedOpE => (0x1C00000000000000000000, 0x1E00000000000000000000)
  | .reservedOpF => (0x1E00000000000000000000, 0x1E00000000000000000000)
  | .dataCmdAuto => (0x40, 0xFF)
  | .dataCmdFixed => (0x44, 0xFF)
  | .addrCmd _ => (0xC0, 0xF8)
  | .ctrlCmd _ _ => (0x80, 0xF0)

/-- A code has a row's fixed bits. -/
def matchesRow (row : Nat × Nat) : Code → Prop
  | .command w => w &&& BitVec.ofNat 85 row.2 = BitVec.ofNat 85 row.1
  | .wire v => v &&& BitVec.ofNat 8 row.2 = BitVec.ofNat 8 row.1

/-- The instruction's words match its row of the opcode table (R80, R72 to R74). -/
def RowMatch.Statement (i : Instr) : Prop := matchesRow (tableRow i) (encode i)

/-- Only the `op` field of a command word is fixed by a row (R80). -/
theorem commandWord_masked (op : BitVec 4) (colon : Bool) (arg len : Byte) (a b : BitVec 16) (data : Quad) :
    commandWord op colon arg len a b data &&& 0x1E00000000000000000000#85 = op.setWidth 85 <<< 81 := by
  have h := commandWord_op op colon arg len a b data
  ext i hi
  by_cases h81 : i < 81
  · have hm : ∀ j : Fin 81, (0x1E00000000000000000000#85).getLsbD j.val = false := by decide
    have := hm ⟨i, h81⟩
    simp only [BitVec.getLsbD_eq_getElem hi] at this
    simp [this, h81]
  · have hb : (commandWord op colon arg len a b data).getLsbD i = op.getLsbD (i - 81) := by
      have h' := congrArg (fun x => x.getLsbD (i - 81)) h
      simp only [CommandWord.op, BitVec.getLsbD_extractLsb', show 81 + (i - 81) = i by omega] at h'
      rw [← h']
      simp [show i - 81 < 4 by omega]
    have hm : ∀ j : Fin 4, (0x1E00000000000000000000#85).getLsbD (81 + j.val) = true := by decide
    have hm := hm ⟨i - 81, by omega⟩
    simp only [show 81 + (i - 81) = i by omega, BitVec.getLsbD_eq_getElem hi] at hm hb
    simp [hm, hb, h81]

namespace RowMatch

theorem construct : Statement .construct := commandWord_masked _ _ _ _ _ _ _
theorem release : Statement .release := commandWord_masked _ _ _ _ _ _ _
theorem brightness (level : Byte) : Statement (.brightness level) := commandWord_masked _ _ _ _ _ _ _
theorem on : Statement .on := commandWord_masked _ _ _ _ _ _ _
theorem off : Statement .off := commandWord_masked _ _ _ _ _ _ _
theorem showText (len : Byte) (chars : Quad) : Statement (.showText len chars) := commandWord_masked _ _ _ _ _ _ _
theorem numbers (a b : BitVec 16) (colon : Bool) : Statement (.numbers a b colon) := commandWord_masked _ _ _ _ _ _ _
theorem clear : Statement .clear := commandWord_masked _ _ _ _ _ _ _
theorem raw (segs : Quad) : Statement (.raw segs) := commandWord_masked _ _ _ _ _ _ _
theorem start : Statement .start := commandWord_masked _ _ _ _ _ _ _
theorem stop : Statement .stop := commandWord_masked _ _ _ _ _ _ _
theorem writeByte (v : Byte) : Statement (.writeByte v) := commandWord_masked _ _ _ _ _ _ _
theorem reservedOp0 : Statement .reservedOp0 := commandWord_masked _ _ _ _ _ _ _
theorem reservedOpD : Statement .reservedOpD := commandWord_masked _ _ _ _ _ _ _
theorem reservedOpE : Statement .reservedOpE := commandWord_masked _ _ _ _ _ _ _
theorem reservedOpF : Statement .reservedOpF := commandWord_masked _ _ _ _ _ _ _
theorem dataCmdAuto : Statement .dataCmdAuto := by
  have h : (0x40#8 : Byte) &&& 0xFF#8 = 0x40#8 := by decide
  exact h
theorem dataCmdFixed : Statement .dataCmdFixed := by
  have h : (0x44#8 : Byte) &&& 0xFF#8 = 0x44#8 := by decide
  exact h
theorem addrCmd (address : BitVec 3) : Statement (.addrCmd address) := by
  have h : ∀ a : BitVec 3, ((0b11000#5 ++ a) : Byte) &&& 0xF8#8 = 0xC0#8 := by decide
  exact h address
theorem ctrlCmd (on : Bool) (brightness : BitVec 3) : Statement (.ctrlCmd on brightness) := by
  have h : ∀ (x : Bool) (b : BitVec 3), ((0b1000#4 ++ (BitVec.ofBool x ++ b)) : Byte) &&& 0xF0#8 = 0x80#8 := by decide
  exact h on brightness

end RowMatch

end Sys2Proof.Laws
end

