-- ==== Sys2Proof/Tests/Slice0.lean ====
section
/-! SUPPORT. Tests: decoding of words written out from the spec, ill-formed terms, the spec's test vectors (95_test_vectors.md) one step
at a time, and a witness for the hypotheses of each statement. -/

namespace Sys2Proof.Tests

-- The tests are elaborated one after another: in the package as one text, all of them waiting for the kernel at once need a thread each.
set_option Elab.async false

open Sys2Proof.Machine

/-! ### Small states -/

/-- The state an outcome goes on in. -/
def after (o : Host.Outcome State Fault Refusal) : Option State :=
  match o with
  | .next t => some t
  | .fault _ | .refused _ => none

/-- Right after reset, with the grants to come. -/
def freshState (acq : List Bool) : State := { State.reset with env := { dio := [], acq := acq, drawn := 0 } }

/-- A session with idle lines, a value of `ctl` and the ACK levels to come. -/
def idleState (ctl : BitVec 4) (dio : List Level) : State :=
  { State.reset with
    sess := .idle
    clkDrv := .h
    dioDrv := .h
    ctl := ctl
    rx := { Receiver.powerUp with scan := .idle }
    env := { dio := dio, acq := [], drawn := 0 } }

/-- An open frame with no byte in it. -/
def openState (dio : List Level) : State :=
  { idleState 0#4 dio with bus := .frame, dioDrv := .l, rx := { Receiver.powerUp with scan := .inFrame [] [] } }

/-- An open frame with these bytes in it, one at least. -/
def sentState (v : Byte) (vs : List Byte) (dio : List Level) : State :=
  { idleState 0#4 dio with bus := .frame, clkDrv := .l, dioDrv := .l, rx := { Receiver.powerUp with scan := .inFrame [] (v :: vs) } }

/-- A receiver in a mode, with the data bytes of an address frame in hand. -/
def frameState (mode : Option AddrMode) (args : List Byte) : State :=
  { idleState 0#4 [] with rx := { Receiver.powerUp with scan := .idle, mode := mode, args := args } }

/-- An operation under way: the first of STOP's phases is next. -/
def busyState : State := { sentState 0x40#8 [] [] with seq := .busy (plainPhase .stop 0 0 1 (some .l) none) [] .ok }

/-- STOP under way, with a phase after the one that is next. -/
def stoppingState : State :=
  { sentState 0x40#8 [] [] with
    seq := .busy (plainPhase .stop 0 0 3 (some .h) none) [{ plainPhase .stop 0 0 4 none (some .h) with effect := .closeFrame }] .ok }

abbrev LL : Event := .ph .l .l
abbrev LH : Event := .ph .l .h
abbrev HL : Event := .ph .h .l
abbrev HH : Event := .ph .h .h
abbrev LZ : Event := .ph .l .z
abbrev HZ : Event := .ph .h .z
abbrev ZZ : Event := .ph .z .z
abbrev sL : Event := .smp .low
abbrev sH : Event := .smp .high

theorem fresh_boundary (acq : List Bool) : (freshState acq).Boundary := by
  constructor <;> simp [freshState, State.reset, Receiver.powerUp, samplesOf]

theorem idle_boundary (ctl : BitVec 4) (dio : List Level) : (idleState ctl dio).Boundary := by
  constructor <;> simp [idleState, State.reset, samplesOf]

theorem open_boundary (dio : List Level) : (openState dio).Boundary := by
  constructor <;> simp [openState, idleState, State.reset, samplesOf, State.inOpenFrame]

theorem sent_boundary (v : Byte) (vs : List Byte) (dio : List Level) : (sentState v vs dio).Boundary := by
  constructor <;> simp [sentState, idleState, State.reset, samplesOf, State.inOpenFrame]

/-! ### Decoding: one word per row, written out from R80 (op 84:81, colon 80, arg 79:72, len 71:64, a 63:48, b 47:32, data 31:0) and
R72 to R74 -/

theorem test_decode_construct : decodeTableWord 88 0x200000000000000000000 = some .construct := by decide +kernel
theorem test_decode_release : decodeTableWord 88 0x400000000000000000000 = some .release := by decide +kernel
theorem test_decode_brightness : decodeTableWord 88 0x607000000000000000000 = some (.brightness 7#8) := by decide +kernel
theorem test_decode_on : decodeTableWord 88 0x800000000000000000000 = some .on := by decide +kernel
theorem test_decode_off : decodeTableWord 88 0xA00000000000000000000 = some .off := by decide +kernel
theorem test_decode_show :
    decodeTableWord 88 0xC00040000000054534554 = some (.showText 4#8 ⟨0x54#8, 0x45#8, 0x53#8, 0x54#8⟩) := by decide +kernel
theorem test_decode_numbers : decodeTableWord 88 0xF0000000C002200000000 = some (.numbers 12#16 34#16 true) := by decide +kernel
theorem test_decode_clear : decodeTableWord 88 0x1000000000000000000000 = some .clear := by decide +kernel
theorem test_decode_raw :
    decodeTableWord 88 0x12000000000000664FDB06 = some (.raw ⟨0x06#8, 0xDB#8, 0x4F#8, 0x66#8⟩) := by decide +kernel
theorem test_decode_start : decodeTableWord 88 0x1400000000000000000000 = some .start := by decide +kernel
theorem test_decode_stop : decodeTableWord 88 0x1600000000000000000000 = some .stop := by decide +kernel
theorem test_decode_writeByte : decodeTableWord 88 0x183F000000000000000000 = some (.writeByte 0x3F#8) := by decide +kernel
theorem test_decode_reservedOp0 : decodeTableWord 88 0x0 = some .reservedOp0 := by decide +kernel
theorem test_decode_reservedOpD : decodeTableWord 88 0x1A00000000000000000000 = some .reservedOpD := by decide +kernel
theorem test_decode_reservedOpE : decodeTableWord 88 0x1C00000000000000000000 = some .reservedOpE := by decide +kernel
theorem test_decode_reservedOpF : decodeTableWord 88 0x1E00000000000000000000 = some .reservedOpF := by decide +kernel
theorem test_decode_dataCmdAuto : decodeTableWord 8 0b01000000 = some .dataCmdAuto := by decide +kernel
theorem test_decode_dataCmdFixed : decodeTableWord 8 0b01000100 = some .dataCmdFixed := by decide +kernel
theorem test_decode_addrCmd : decodeTableWord 8 0b11000101 = some (.addrCmd 5#3) := by decide +kernel
theorem test_decode_ctrlCmd : decodeTableWord 8 0b10001101 = some (.ctrlCmd true 5#3) := by decide +kernel
/-- Operands an operation does not use are ignored (R81): every other bit of a CONSTRUCT word set. -/
theorem test_decode_ignores : decodeTableWord 88 0x3FFFFFFFFFFFFFFFFFFFF = some .construct := by decide +kernel
/-- What is not an instruction: classes 00, reserved bits, the addresses 6 and 7, and numbers too wide (R72, R73, R80, R83). -/
theorem test_decode_rejects :
    [decodeWire 0x00#8, decodeWire 0x42#8, decodeWire 0xC6#8, decodeWire 0xC7#8, decodeWire 0xC8#8, decodeWire 0x90#8]
      = [.error .noCommandClass, .error .reservedBitSet, .error .addressOutOfRange, .error .addressOutOfRange,
         .error .reservedBitSet, .error .reservedBitSet] ∧
    decodeTableWord 8 0x140 = none ∧ decodeTableWord 88 (2 ^ 85) = none := by
  refine ⟨rfl, by decide +kernel, by decide +kernel⟩

/-- The addresses 6 and 7 are not encodable (R73): the one check of WellFormed refuses them. -/
theorem test_wf_rejects : (Instr.addrCmd 6#3).wf = false ∧ (Instr.addrCmd 7#3).wf = false ∧ (Instr.addrCmd 5#3).wf = true := by decide

/-- R85's assembler: `numbers(12, 34)` has `colon` 0, and a text's length is carried whole up to 255. -/
theorem test_assemble :
    assemble (.numbers 12#16 34#16 none) = .numbers 12#16 34#16 false ∧
    assemble (.showText [0x48#8, 0x45#8, 0x4C#8, 0x4C#8, 0x4F#8]) = .showText 5#8 ⟨0x48#8, 0x45#8, 0x4C#8, 0x4C#8⟩ := by decide

/-- R85: `brightness(7)` is the word with `op` 0x3 and `arg` 7, `raw` the word with `op` 0x9 and `data[0]` in the low byte. -/
theorem test_assemble_words :
    encode (assemble (.brightness 7#8)) = .command 0x607000000000000000000#85 ∧
    encode (assemble (.raw 0x06#8 0xDB#8 0x4F#8 0x66#8)) = .command 0x12000000000000664FDB06#85 := by decide +kernel

/-! ### The pure functions (V12 to V17) -/

/-- V15, both pads: 0, 7, 10, 99, 100, 65535. -/
theorem test_fmtNumber :
    [0, 7, 10, 99, 100, 65535].map (fun n => fmtNumber n 2 true)
      = [[0x3F#8, 0x3F#8], [0x3F#8, 0x07#8], [0x06#8, 0x3F#8], [0x6F#8, 0x6F#8], [0x06#8, 0x3F#8], [0x7D#8, 0x6D#8]] ∧
    [fmtNumber 0 2 false, fmtNumber 5 4 false, fmtNumber 42 1 true]
      = [[0x00#8, 0x3F#8], [0x00#8, 0x00#8, 0x00#8, 0x6D#8], [0x66#8]] := by decide +kernel

/-- V16: the separator over an oversize number, and the blank pad. -/
theorem test_fmtPair :
    fmtPair true 65535#16 100#16 true = ⟨0x7D#8, 0xED#8, 0x06#8, 0x3F#8⟩ ∧
    fmtPair false 7#16 5#16 true = ⟨0x00#8, 0x87#8, 0x00#8, 0x6D#8⟩ := by decide +kernel

/-- V17: "Ab1-", "12:30", and elements at or beyond `len` ignored. -/
theorem test_fmtText :
    fmtText 4#8 ⟨0x41#8, 0x62#8, 0x31#8, 0x2D#8⟩ = ⟨0x77#8, 0x7C#8, 0x06#8, 0x40#8⟩ ∧
    fmtText 5#8 ⟨0x31#8, 0x32#8, 0x3A#8, 0x33#8⟩ = ⟨0x06#8, 0x5B#8, 0x00#8, 0x4F#8⟩ ∧
    fmtText 2#8 ⟨0x4F#8, 0x4E#8, 0x58#8, 0x59#8⟩ = ⟨0x3F#8, 0x54#8, 0x00#8, 0x00#8⟩ := by decide +kernel

/-! ### One instruction at a time (V1 to V24) -/

/-- V18: granted. -/
theorem test_construct :
    (after (exec .construct (freshState [true]))).map (fun t => (t.sess, t.trace, t.ctl, t.rspStatus, t.rspValid))
      = some (.idle, [HZ, HH], 0#4, .ok, true) := by decide +kernel

/-- V18: not granted, then V23: with a session `acq_ok` is not looked at. -/
theorem test_construct_fails :
    (after (exec .construct (freshState [false]))).map (fun t => (t.sess, t.trace, t.rspStatus, t.env.acq))
      = some (.uninit, [], .acquisitionFailure, []) ∧
    (after (exec .construct { idleState 0#4 [] with env := ⟨[], [false], 0⟩ })).map (fun t => (t.sess, t.rspStatus, t.env.acq))
      = some (.idle, .illegalState, [false]) := by decide +kernel

/-- V22: RELEASE, and after it nothing is legal. -/
theorem test_release :
    (after (exec .release (idleState 5#4 []))).map (fun t => (t.sess, t.trace, t.clkDrv, t.dioDrv, t.ctl))
      = some (.released, [HZ, ZZ], .z, .z, 5#4) ∧
    (after (exec .construct { freshState [true] with sess := .released })).map (·.rspStatus) = some .illegalState := by
  decide +kernel

/-- V19: `brightness(200)` and `brightness(8)` are clamped to 7. -/
theorem test_brightness :
    (after (exec (.brightness 200#8) (idleState 0b1101#4 [.low]))).map (fun t => (t.ctl, t.rx.inbox)) = some (0b1111#4, [[0x8F#8]]) ∧
    (after (exec (.brightness 8#8) (idleState 0b1101#4 [.low]))).map (fun t => (t.ctl, t.rx.inbox)) = some (0b1111#4, [[0x8F#8]]) := by
  decide +kernel

/-- V19: `brightness(3)` leaves the display off; V23: without a session it is ILLEGAL_STATE. -/
theorem test_brightness_off :
    (after (exec (.brightness 3#8) (idleState 0#4 [.low]))).map (fun t => (t.ctl, t.rx.inbox)) = some (0b0011#4, [[0x83#8]]) ∧
    (after (exec (.brightness 9#8) (freshState []))).map (·.rspStatus) = some .illegalState := by decide +kernel

/-- V19: `on()`, and P2: a chip that does not ACK. -/
theorem test_on :
    (after (exec .on (idleState 0#4 [.low]))).map (fun t => (t.ctl, t.rx.inbox, t.rspStatus, t.rspAck)) = some (0b1000#4, [[0x88#8]], .ok, true) ∧
    (after (exec .on (idleState 0#4 [.high]))).map (fun t => (t.rx.inbox, t.rspStatus, t.rspAck, t.lastAck, t.ackMiss))
      = some ([[0x88#8]], .ackMissing, false, false, true) := by decide +kernel

/-- V19: `off()` keeps the brightness bits. -/
theorem test_off :
    (after (exec .off (idleState 0b1101#4 [.low]))).map (fun t => (t.ctl, t.rx.inbox)) = some (0b0101#4, [[0x85#8]]) := by decide +kernel

/-- V20: `show("HELLO")` keeps the first four characters. -/
theorem test_show :
    (after (exec (.showText 5#8 ⟨0x48#8, 0x45#8, 0x4C#8, 0x4C#8⟩) (idleState 0#4 (List.replicate 7 .low)))).map
      (fun t => (t.buf, t.rx.inbox, (pairsOf t.trace).length))
      = some (⟨0x76#8, 0x79#8, 0x38#8, 0x38#8⟩, [[0x40#8], [0xC0#8, 0x76#8, 0x79#8, 0x38#8, 0x38#8], [0x80#8]], 218) := by
  decide +kernel

/-- V21: one ACK missing in the middle of `show("ERR")`. -/
theorem test_show_ack_missing :
    (after (exec (.showText 3#8 ⟨0x45#8, 0x52#8, 0x52#8, 0x00#8⟩) (idleState 0#4 [.low, .low, .high, .low, .low, .low, .low]))).map
      (fun t => (t.buf, t.rx.inbox.length, t.rspStatus, t.rspAck, t.lastAck, t.ackMiss))
      = some (⟨0x79#8, 0x50#8, 0x50#8, 0x00#8⟩, 3, .ackMissing, false, true, true) := by decide +kernel

/-- V20: `numbers(7, 5, 1)`. -/
theorem test_numbers :
    (after (exec (.numbers 7#16 5#16 true) (idleState 0#4 (List.replicate 7 .low)))).map (fun t => (t.buf, t.rx.inbox))
      = some (⟨0x3F#8, 0x87#8, 0x3F#8, 0x6D#8⟩, [[0x40#8], [0xC0#8, 0x3F#8, 0x87#8, 0x3F#8, 0x6D#8], [0x80#8]]) := by decide +kernel

/-- V20: `clear()` from `ctl` 0b1010. -/
theorem test_clear :
    (after (exec .clear (idleState 0b1010#4 (List.replicate 7 .low)))).map (fun t => (t.ctl, t.rx.inbox))
      = some (0b1010#4, [[0x40#8], [0xC0#8, 0x00#8, 0x00#8, 0x00#8, 0x00#8], [0x8A#8]]) := by decide +kernel

/-- V20: `raw([0x06, 0xDB, 0x4F, 0x66])`. -/
theorem test_raw :
    (after (exec (.raw ⟨0x06#8, 0xDB#8, 0x4F#8, 0x66#8⟩) (idleState 0b1000#4 (List.replicate 7 .low)))).map (fun t => (t.buf, t.rx.inbox))
      = some (⟨0x06#8, 0xDB#8, 0x4F#8, 0x66#8⟩, [[0x40#8], [0xC0#8, 0x06#8, 0xDB#8, 0x4F#8, 0x66#8], [0x88#8]]) := by decide +kernel

/-- V1: START; V10: refused with a frame open. -/
theorem test_start :
    (after (exec .start (idleState 0#4 []))).map (fun t => (t.trace, t.bus, t.clkDrv, t.dioDrv, t.rspStatus))
      = some ([HL], .frame, .h, .l, .ok) ∧
    (after (exec .start (openState []))).map (fun t => (t.trace, t.rspStatus)) = some ([], .illegalState) := by decide +kernel

/-- V2: STOP after a byte; V10: refused with no frame open. -/
theorem test_stop :
    (after (exec .stop (sentState 0x3F#8 [] []))).map (fun t => (t.trace, t.bus, t.rx.inbox)) = some ([LL, LL, HL, HH], .idle, [[0x3F#8]]) ∧
    (after (exec .stop (idleState 0#4 []))).map (fun t => (t.trace, t.rspStatus)) = some ([], .illegalState) := by decide +kernel

/-- V9: the empty frame. -/
theorem test_stop_empty :
    (after (exec .stop (openState []))).map (fun t => (t.trace, t.rx.inbox)) = some ([LL, LL, HL, HH], [[]]) := by decide +kernel

/-- V3: WRITEBYTE(0x3F) after START, acknowledged; V4: the same, not acknowledged. -/
theorem test_writeByte :
    (after (exec (.writeByte 0x3F#8) (openState [.low]))).map (fun t => (t.trace, t.rspStatus, t.lastAck))
      = some ([LL, LH, HH, LH, LH, HH, LH, LH, HH, LH, LH, HH, LH, LH, HH, LH, LH, HH, LH, LL, HL, LL, LL, HL, LL, LZ, HZ, sL, LZ, LL],
          .ok, true) ∧
    (after (exec (.writeByte 0x3F#8) (openState [.high]))).map (fun t => (t.trace, t.rspStatus, t.lastAck, t.ackMiss))
      = some ([LL, LH, HH, LH, LH, HH, LH, LH, HH, LH, LH, HH, LH, LH, HH, LH, LH, HH, LH, LL, HL, LL, LL, HL, LL, LZ, HZ, sH, LZ, LL],
          .ackMissing, false, true) := by decide +kernel

/-- V7: WRITEBYTE(0xA5) after START; V8: WRITEBYTE(0x06) as a second byte. -/
theorem test_writeByte_bits :
    (after (exec (.writeByte 0xA5#8) (openState [.low]))).map (·.trace)
      = some [LL, LH, HH, LH, LL, HL, LL, LH, HH, LH, LL, HL, LL, LL, HL, LL, LH, HH, LH, LL, HL, LL, LH, HH, LH, LZ, HZ, sL, LZ, LL] ∧
    (after (exec (.writeByte 0x06#8) (sentState 0xC0#8 [] [.low]))).map (fun t => (t.trace, t.rx.scan))
      = some ([LL, LL, HL, LL, LH, HH, LH, LH, HH, LH, LL, HL, LL, LL, HL, LL, LL, HL, LL, LL, HL, LL, LL, HL, LL, LZ, HZ, sL, LZ, LL],
          .inFrame [] [0xC0#8, 0x06#8]) := by decide +kernel

/-- V23: the reserved `op` values, in any state. -/
theorem test_reserved :
    [after (exec .reservedOp0 (freshState [])), after (exec .reservedOpD (openState [])), after (exec .reservedOpE (idleState 0#4 [])),
     after (exec .reservedOpF busyState)].map (fun t => t.map (·.rspStatus))
      = [some .illegalOp, some .illegalOp, some .illegalOp, some .illegalOp] := by decide +kernel

/-- P4: the receiver after the frames `[0x40]`, `[0xC1, 0x7F]` and `[0x8A]`; and R58: the last register and one past it. -/
theorem test_wire_commands :
    (after (exec .dataCmdAuto (frameState none []))).map (·.rx.mode) = some (some .auto) ∧
    (after (exec .dataCmdFixed (frameState none []))).map (·.rx.mode) = some (some .fixed) ∧
    (after (exec (.addrCmd 1#3) (frameState (some .auto) [0x7F#8]))).map (·.rx.mem) = some [(1, 0x7F#8)] ∧
    (after (exec (.addrCmd 5#3) (frameState (some .auto) [0x7F#8, 0x06#8]))).map (fun t => (t.rx.mem, t.rx.mode)) = some ([], none) ∧
    (after (exec (.ctrlCmd true 2#3) (frameState none []))).map (fun t => (t.rx.on, t.rx.bright)) = some (some true, some 2#3) := by
  decide +kernel

/-- V24: `on()` right after reset is ILLEGAL_STATE; a step from a reset edge ends at reset. -/
theorem test_reset :
    (after (exec .on State.reset)).map (·.rspStatus) = some .illegalState ∧
    (after (step { busyState with host := [.reset] })).map (fun t => (t.sess, t.clkDrv, t.dioDrv, t.rspValid, t.cmdReady))
      = some (.uninit, .z, .z, false, true) := by decide +kernel

/-- R230: between two edges with `rst_n` low `cmd_ready` is 0, and it is 1 for the first edge at which `rst_n` is high. -/
theorem test_reset_ready :
    (after (step { idleState 0#4 [] with host := [.reset, .reset] })).map (·.cmdReady) = some false ∧
    (after (step { idleState 0#4 [] with host := [.reset, .wait] })).map (·.cmdReady) = some true := by decide +kernel

/-- R25: `rsp_valid` is 1 for the step in which the operation ends only, the receiver's step after it being another; and an unreadable
frame clears it too. -/
theorem test_rspValid_one_step :
    (after (step { idleState 0#4 [.low] with host := [.command (opWord 0x4#4)] })).map (fun t => (t.rspValid, (after (step t)).map (·.rspValid)))
      = some (true, some false) ∧
    (after (step { idleState 0#4 [] with rspValid := true, rx := { Receiver.powerUp with inbox := [[0xC6#8]] } })).map (·.rspValid)
      = some false := by decide +kernel

/-- R156 (f): the byte index stays in 0 to NDIGITS in STOP of the longest frame, F_ADDR with its five bytes. -/
theorem test_stop_byte_index :
    ((framePhases 1 (frameAddr blankQuad)).filter (fun p => decide (p.part = .stop))).map (fun p => (p.frame, p.byte, p.index))
      = [(1, 4, 1), (1, 4, 2), (1, 4, 3), (1, 4, 4)] := by decide +kernel

/-- R23: after START CLOCK's pins show driven high and DATA's driven low. -/
theorem test_pins :
    (after (exec .start (idleState 0#4 []))).map (fun t => (t.outputs.clkOe, t.outputs.clkOut, t.outputs.dioOe, t.outputs.dioOut))
      = some (true, true, true, false) := by decide +kernel

/-- A word placed for the fetch is what the next step runs: CONSTRUCT, granted, and the wire byte 0x8F. -/
theorem test_withFetchWord :
    (after (step ((freshState [true]).withFetchWord 88 0x200000000000000000000))).map (·.sess) = some .idle ∧
    (after (step (State.reset.withFetchWord 8 0x8F))).map (fun t => (t.rx.on, t.rx.bright)) = some (some true, some 7#3) := by
  decide +kernel

/-- R20: an operation launched phase by phase has its first phase ahead, and the step after it drives the lines. -/
theorem test_by_phase :
    (after (step { idleState 0#4 [] with host := [.commandByPhase (opWord 0xA#4)] })).map (fun t => (t.cmdReady, t.trace)) = some (false, []) ∧
    (after (step busyState)).map (fun t => (t.cmdReady, t.trace, t.rspValid)) = some (true, [LL], true) := by decide +kernel

/-- V5: the waveform of WRITEBYTE(0x00) after START, stutters merged, from `HL`: nine clock pulses. -/
theorem test_waveform :
    waveform (HL :: writeByteEvents .l 0x00#8 .low)
      = pairsOf [HL, LL, HL, LL, HL, LL, HL, LL, HL, LL, HL, LL, HL, LL, HL, LL, HL, LL, LZ, HZ, LZ, LL] := by decide +kernel

/-! ### Witnesses: states and operands that meet the hypotheses of each statement together -/

theorem witness_StartOpensFrame :
    ((opWord 0xA#4).op = 0xA#4) ∧ ((idleState 0#4 []).Boundary ∧ (idleState 0#4 []).sess = .idle ∧ (idleState 0#4 []).bus = .idle) ∧
    ¬ ((openState []).sess = .idle ∧ (openState []).bus = .idle) ∧ ¬ (State.reset.sess = .idle ∧ State.reset.bus = .idle) :=
  ⟨by decide +kernel, ⟨idle_boundary _ _, rfl, rfl⟩, by decide, by decide⟩

theorem witness_DecodeEncode : (Instr.addrCmd 5#3).wf = true ∧ (Instr.brightness 255#8).wf = true := by decide

theorem witness_EncodeDecodeWire : decodeWire 0xC5#8 = .ok (.addrCmd 5#3) ∧ decodeWire 0x8F#8 = .ok (.ctrlCmd true 7#3) := by
  exact ⟨rfl, rfl⟩

/-- AssembledCallsDecode: the texts at the bounds of its index clause, a short one, one of four characters and one of more. -/
theorem witness_AssembledCallsDecode :
    (0 < min ((BitVec.ofNat 8 (min [0x41#8].length 255)).toNat) 4 ∧ ¬ (1 < min ((BitVec.ofNat 8 (min [0x41#8].length 255)).toNat) 4)) ∧
    (3 < min ((BitVec.ofNat 8 (min [1#8, 2#8, 3#8, 4#8, 5#8].length 255)).toNat) 4) ∧
    (min (List.replicate 300 0x41#8).length 255 = 255) := by decide +kernel

theorem witness_CommandBytes : (5#3 : BitVec 3).toNat ≤ 5 ∧ (0#3 : BitVec 3).toNat ≤ 5 := by decide

theorem witness_CommandBytesTellCommands :
    encAddr 5#3 = some 0xC5#8 ∧ encCtrl true 7#3 = encCtrl true 7#3 ∧
    (0x40#8 = encData .auto ∨ some 0x40#8 = encAddr 0#3 ∨ 0x40#8 = encCtrl true 0#3) := by decide

theorem witness_RomContents : (0x59#8, 0x6E#8) ∈ letterRows ∧ romChar 0x79#8 ≠ 0x00#8 := by decide

theorem witness_DecimalDigits : 9 < 10 ∧ 10 ≤ 10 ∧ digits10 10 = (1 : Fin 10) :: [0] := by decide

theorem witness_NumberField : 2 ≤ (digits10 10).length ∧ (digits10 9).length < 2 := by decide

theorem witness_PairOfTwoDigitNumbers : (99#16).toNat < 100 ∧ (0#16).toNat < 100 := by decide

theorem witness_StepRunsCommand :
    (idleState 0#4 []).rx.inbox = [] ∧ (idleState 0#4 []).seq = .rest ∧
    ({ idleState 0#4 [] with host := [.command (opWord 0x4#4)] } : State).host = .command (opWord 0x4#4) :: [] := ⟨rfl, rfl, rfl⟩

theorem witness_StepRunsFrame :
    ({ Receiver.powerUp with inbox := [[0xC0#8, 0x3F#8]] } : Receiver).inbox = (0xC0#8 :: [0x3F#8]) :: [] ∧
    decodeWire 0xC0#8 = .ok (.addrCmd 0#3) := ⟨rfl, rfl⟩

theorem witness_StepSpoilsUnknownFrame :
    (∀ v ds, ([] : List Byte) = v :: ds → ∃ e, decodeWire v = .error e) ∧
    (∀ v ds, [0xC6#8] = v :: ds → ∃ e, decodeWire v = .error e) := by
  refine ⟨fun v ds h => (nomatch h), fun v ds h => ?_⟩
  injection h with h _
  subst h
  exact ⟨.addressOutOfRange, rfl⟩

theorem witness_StepExecutesFrame :
    ({ Receiver.powerUp with inbox := [[0x8F#8]] } : Receiver).inbox = [0x8F#8] :: [] ∧
    ({ Receiver.powerUp with inbox := [[]] } : Receiver).inbox = [] :: [] := ⟨rfl, rfl⟩

theorem witness_StepWaitsForCommand :
    (State.reset.rx.inbox = [] ∧ State.reset.seq = .rest ∧ State.reset.host = []) ∧
    ({ State.reset with host := [.wait] } : State).host = .wait :: [] := ⟨⟨rfl, rfl, rfl⟩, rfl⟩

/-- StepAdvancesOnePhase: a command to launch; and an operation running with nothing, a wait, and a command of either kind at the port, its
last phase next and another one after it. -/
theorem witness_StepAdvancesOnePhase :
    (∃ s : State, s.rx.inbox = [] ∧ s.seq = .rest ∧ s.host = .commandByPhase (opWord 0xA#4) :: []) ∧
    (∃ s : State, s.rx.inbox = [] ∧ (∃ p fin, s.seq = .busy p [] fin) ∧ s.host = []) ∧
    (∃ s : State, s.rx.inbox = [] ∧ (∃ p fin, s.seq = .busy p [] fin) ∧ s.host = .wait :: []) ∧
    (∃ s : State, s.rx.inbox = [] ∧ (∃ p q ps fin, s.seq = .busy p (q :: ps) fin) ∧ s.host = .command (opWord 0xA#4) :: []) ∧
    (∃ s : State, s.rx.inbox = [] ∧ (∃ p q ps fin, s.seq = .busy p (q :: ps) fin) ∧ s.host = .commandByPhase (opWord 0xA#4) :: []) :=
  ⟨⟨{ idleState 0#4 [] with host := [.commandByPhase (opWord 0xA#4)] }, rfl, rfl, rfl⟩,
   ⟨busyState, rfl, ⟨_, _, rfl⟩, rfl⟩,
   ⟨{ busyState with host := [.wait] }, rfl, ⟨_, _, rfl⟩, rfl⟩,
   ⟨{ stoppingState with host := [.command (opWord 0xA#4)] }, rfl, ⟨_, _, _, _, rfl⟩, rfl⟩,
   ⟨{ stoppingState with host := [.commandByPhase (opWord 0xA#4)] }, rfl, ⟨_, _, _, _, rfl⟩, rfl⟩⟩

theorem witness_ResetValues :
    (freshState [true]).sess = .uninit ∧ (freshState [true]).env.acqOk = true ∧ ∃ t, exec .construct (freshState [true]) = .next t :=
  ⟨rfl, rfl, _, rfl⟩

/-- StepResets: at REST on an idle bus, at REST with a frame open, and during an operation. -/
theorem witness_StepResets :
    (∃ s : State, s.rx.inbox = [] ∧ s.host = .reset :: [] ∧ s.seq = .rest ∧ s.bus = .idle) ∧
    (∃ s : State, s.rx.inbox = [] ∧ s.host = .reset :: [] ∧ s.seq = .rest ∧ s.bus = .frame) ∧
    (∃ s : State, s.rx.inbox = [] ∧ s.host = .reset :: [] ∧ s.seq ≠ .rest) :=
  ⟨⟨{ idleState 0#4 [] with host := [.reset] }, rfl, rfl, rfl, rfl⟩, ⟨{ openState [] with host := [.reset] }, rfl, rfl, rfl, rfl⟩,
   ⟨{ busyState with host := [.reset] }, rfl, rfl, by decide +kernel⟩⟩

theorem witness_ResetAbandonsOperation :
    ∃ s : State, s.rx.inbox = [] ∧ (∃ p ps fin, s.seq = .busy p ps fin) ∧ s.host = .reset :: [] :=
  ⟨{ busyState with host := [.reset] }, rfl, ⟨_, _, _, rfl⟩, rfl⟩

/-- StepKeepsInvariant: a state with a command at the port that meets the invariant, and its step. -/
theorem witness_StepKeepsInvariant :
    ∃ s t : State, s.Inv ∧ step s = .next t ∧ t.bus = .frame :=
  ⟨{ idleState 0#4 [] with host := [.command (opWord 0xA#4)] }, _,
    ⟨by constructor <;> simp [State.complete, idleState, State.reset, samplesOf], rfl⟩, rfl, by decide +kernel⟩

theorem witness_StepKeepsDisplayMemory :
    ∃ s t : State, Memory.wf s.rx.mem = true ∧ s.rx.mem ≠ [] ∧ step s = .next t :=
  ⟨{ idleState 0#4 [] with rx := { Receiver.powerUp with mem := [(0, 0x3F#8), (5, 0x06#8)] } }, _, by decide, by decide, rfl⟩

theorem witness_StepKeepsTraceTold :
    ∃ s t : State, s.TraceTold ∧ s.trace ≠ [] ∧ step s = .next t :=
  ⟨{ idleState 0#4 [] with trace := [HZ, HH] }, _, ⟨rfl, rfl⟩, by decide, rfl⟩

theorem witness_PhasesAgreeWithOperation : Instr.isWire .clear = false := rfl

theorem witness_WriteByteSends :
    (opWord 0xC#4).op = 0xC#4 ∧
    ((openState []).Boundary ∧ (openState []).bus = .frame ∧ (openState []).rx.scan = .inFrame [] []) ∧
    ((sentState 0xC0#8 [] []).Boundary ∧ (sentState 0xC0#8 [] []).bus = .frame ∧ (sentState 0xC0#8 [] []).rx.scan = .inFrame [] [0xC0#8]) ∧
    ¬ ((idleState 0#4 []).sess = .idle ∧ (idleState 0#4 []).bus = .frame) ∧ ¬ (State.reset.sess = .idle ∧ State.reset.bus = .frame) :=
  ⟨by decide +kernel, ⟨open_boundary _, rfl, rfl⟩, ⟨sent_boundary _ _ _, rfl, rfl⟩, by decide, by decide⟩

theorem witness_StopClosesFrame :
    (opWord 0xB#4).op = 0xB#4 ∧
    ((openState []).Boundary ∧ (openState []).bus = .frame ∧ (openState []).rx.scan = .inFrame [] []) ∧
    ((sentState 0x40#8 [] []).Boundary ∧ (sentState 0x40#8 [] []).bus = .frame ∧ (sentState 0x40#8 [] []).rx.scan = .inFrame [] [0x40#8]) ∧
    ¬ ((idleState 0#4 []).sess = .idle ∧ (idleState 0#4 []).bus = .frame) ∧ ¬ (State.reset.sess = .idle ∧ State.reset.bus = .frame) :=
  ⟨by decide +kernel, ⟨open_boundary _, rfl, rfl⟩, ⟨sent_boundary _ _ _, rfl, rfl⟩, by decide, by decide⟩

/-- Refusals: with a frame open and without a session, with no frame open and without a session, and with a session for CONSTRUCT. -/
theorem witness_Refusals :
    ¬ ((openState []).sess = .idle ∧ (openState []).bus = .idle) ∧ ¬ (State.reset.sess = .idle ∧ State.reset.bus = .idle) ∧
    ¬ ((idleState 0#4 []).sess = .idle ∧ (idleState 0#4 []).bus = .frame) ∧ ¬ (State.reset.sess = .idle ∧ State.reset.bus = .frame) ∧
    (idleState 0#4 []).sess ≠ .uninit := by
  decide +kernel

theorem witness_HandFrameRoundTrip : (idleState 8#4 [.high]).Boundary ∧ (idleState 8#4 [.high]).sess = .idle ∧ (idleState 8#4 [.high]).bus = .idle :=
  ⟨idle_boundary _ _, rfl, rfl⟩

theorem witness_FrameLineDiscipline : (idleState 0#4 [.low]).Boundary ∧ (idleState 0#4 [.low]).sess = .idle ∧ (idleState 0#4 [.low]).bus = .idle :=
  ⟨idle_boundary _ _, rfl, rfl⟩

theorem witness_ConstructOpensSession :
    (opWord 0x1#4).op = 0x1#4 ∧ ((freshState [true]).Boundary ∧ (freshState [true]).sess = .uninit ∧ (freshState [true]).env.acqOk = true) ∧
    ((freshState [false]).sess = .uninit ∧ (freshState [false]).env.acqOk = false) ∧ (idleState 0#4 []).sess ≠ .uninit :=
  ⟨by decide +kernel, ⟨fresh_boundary _, rfl, rfl⟩, ⟨rfl, rfl⟩, by decide⟩

theorem witness_ReleaseEndsSession :
    ((opWord 0x2#4).op = 0x2#4) ∧ ((idleState 15#4 []).Boundary ∧ (idleState 15#4 []).sess = .idle ∧ (idleState 15#4 []).bus = .idle) ∧
    ¬ ((openState []).sess = .idle ∧ (openState []).bus = .idle) ∧ ¬ (State.reset.sess = .idle ∧ State.reset.bus = .idle) ∧
    ({ freshState [] with sess := .released } : State).sess = .released :=
  ⟨by decide +kernel, ⟨idle_boundary _ _, rfl, rfl⟩, by decide, by decide, rfl⟩

/-- BrightnessSends: the first level above 7, and 7 itself. -/
theorem witness_BrightnessSends :
    ((opWord 0x3#4).op = 0x3#4) ∧ ((idleState 13#4 []).Boundary ∧ (idleState 13#4 []).sess = .idle ∧ (idleState 13#4 []).bus = .idle) ∧
    ¬ ((openState []).sess = .idle ∧ (openState []).bus = .idle) ∧ ¬ (State.reset.sess = .idle ∧ State.reset.bus = .idle) ∧
    7 < (8#8).toNat ∧ (7#8).toNat ≤ 7 :=
  ⟨by decide +kernel, ⟨idle_boundary _ _, rfl, rfl⟩, by decide, by decide, by decide⟩

theorem witness_OnAndOffSend :
    ((opWord 0x4#4).op = 0x4#4 ∧ (opWord 0x5#4).op = 0x5#4) ∧ ((idleState 5#4 []).Boundary ∧ (idleState 5#4 []).sess = .idle ∧ (idleState 5#4 []).bus = .idle) ∧
    ¬ ((openState []).sess = .idle ∧ (openState []).bus = .idle) ∧ ¬ (State.reset.sess = .idle ∧ State.reset.bus = .idle) :=
  ⟨by decide +kernel, ⟨idle_boundary _ _, rfl, rfl⟩, by decide, by decide⟩

theorem witness_ShowSends :
    ((opWord 0x6#4).op = 0x6#4) ∧ ((idleState 1#4 []).Boundary ∧ (idleState 1#4 []).sess = .idle ∧ (idleState 1#4 []).bus = .idle) ∧
    ¬ ((openState []).sess = .idle ∧ (openState []).bus = .idle) ∧ ¬ (State.reset.sess = .idle ∧ State.reset.bus = .idle) :=
  ⟨by decide +kernel, ⟨idle_boundary _ _, rfl, rfl⟩, by decide, by decide⟩

theorem witness_NumbersSends :
    ((opWord 0x7#4).op = 0x7#4) ∧ ((idleState 2#4 []).Boundary ∧ (idleState 2#4 []).sess = .idle ∧ (idleState 2#4 []).bus = .idle) ∧
    ¬ ((openState []).sess = .idle ∧ (openState []).bus = .idle) ∧ ¬ (State.reset.sess = .idle ∧ State.reset.bus = .idle) :=
  ⟨by decide +kernel, ⟨idle_boundary _ _, rfl, rfl⟩, by decide, by decide⟩

theorem witness_ClearAndRawSend :
    ((opWord 0x8#4).op = 0x8#4 ∧ (opWord 0x9#4).op = 0x9#4) ∧ ((idleState 3#4 []).Boundary ∧ (idleState 3#4 []).sess = .idle ∧ (idleState 3#4 []).bus = .idle) ∧
    ¬ ((openState []).sess = .idle ∧ (openState []).bus = .idle) ∧ ¬ (State.reset.sess = .idle ∧ State.reset.bus = .idle) :=
  ⟨by decide +kernel, ⟨idle_boundary _ _, rfl, rfl⟩, by decide, by decide⟩

theorem witness_OnOffOnSendsThreeFrames : (idleState 5#4 []).Boundary ∧ (idleState 5#4 []).sess = .idle ∧ (idleState 5#4 []).bus = .idle :=
  ⟨idle_boundary _ _, rfl, rfl⟩

theorem witness_ControlIsStartWriteStop :
    ∃ (s t u : State) (i : Instr) (ctl : BitVec 4), s.Boundary ∧ s.sess = .idle ∧ s.bus = .idle ∧ controlValue s.ctl i = some ctl ∧
      exec i s = .next t ∧ execAll [.start, .writeByte (0x80#8 ||| ctl.setWidth 8), .stop] s = .next u :=
  ⟨idleState 0b1101#4 [.low], _, _, .off, 0b0101#4, idle_boundary _ _, rfl, rfl, rfl, rfl, rfl⟩

theorem witness_DisplayWriteIsThreeFrames :
    ∃ (s t u : State) (i : Instr) (q : Quad), s.Boundary ∧ s.sess = .idle ∧ s.bus = .idle ∧ displayBuffer i = some q ∧
      exec i s = .next t ∧
      execAll (handFrame [0x40#8] ++ (handFrame [0xC0#8, q.b0, q.b1, q.b2, q.b3] ++ handFrame [0x80#8 ||| s.ctl.setWidth 8])) s = .next u :=
  ⟨idleState 8#4 [.low], _, _, .clear, blankQuad, idle_boundary _ _, rfl, rfl, rfl, rfl, rfl⟩

/-- FixedLength: one instruction for each of its clauses, CONSTRUCT granted and not granted. -/
theorem witness_FixedLength :
    ((idleState 8#4 []).Boundary ∧ (idleState 8#4 []).sess = .idle ∧ (idleState 8#4 []).bus = .idle) ∧
    ((∃ t, exec .on (idleState 8#4 []) = .next t) ∧ (controlValue 8#4 .on).isSome = true) ∧
    ((∃ t, exec .clear (idleState 8#4 []) = .next t) ∧ (displayBuffer .clear).isSome = true) ∧
    (∃ t, exec .release (idleState 8#4 []) = .next t) ∧
    ((freshState [true]).Boundary ∧ (freshState [true]).sess = .uninit ∧ ∃ t, exec .construct (freshState [true]) = .next t ∧ t.rspStatus = .ok) ∧
    ((freshState [false]).Boundary ∧ (freshState [false]).sess = .uninit ∧ ∃ t, exec .construct (freshState [false]) = .next t ∧ t.rspStatus ≠ .ok) :=
  ⟨⟨idle_boundary _ _, rfl, rfl⟩, ⟨⟨_, rfl⟩, rfl⟩, ⟨⟨_, rfl⟩, rfl⟩, ⟨_, rfl⟩, ⟨fresh_boundary _, rfl, _, rfl, rfl⟩,
   ⟨fresh_boundary _, rfl, _, rfl, by decide +kernel⟩⟩

theorem witness_SamplesNeverChangeTheWire :
    Instr.on ≠ .construct ∧ (∃ t, exec .on (idleState 0#4 [.low]) = .next t) ∧
    (∃ t, exec .on { idleState 0#4 [.low] with env := ⟨[.high], [], 0⟩ } = .next t) :=
  ⟨by decide, ⟨_, rfl⟩, ⟨_, rfl⟩⟩

theorem witness_SessionTransitions :
    ∃ t, exec .construct (freshState [true]) = .next t ∧ t.sess ≠ (freshState [true]).sess := ⟨_, rfl, by decide +kernel⟩

theorem witness_ConditionsArePrecise :
    ∃ t, Instr.isWire .construct = false ∧ exec .construct (freshState [false]) = .next t ∧ t.rspStatus ≠ .ok ∧ t.rspStatus ≠ .ackMissing :=
  ⟨_, rfl, rfl, by decide +kernel, by decide +kernel⟩

/-- RegisterFrame: an instruction for each clause. -/
theorem witness_RegisterFrame :
    ((displayBuffer .on).isNone = true ∧ Instr.on ≠ .construct ∧ ∃ t, exec .on (idleState 0#4 [.low]) = .next t) ∧
    ((controlValue 0#4 .clear).isNone = true ∧ Instr.clear ≠ .construct ∧ ∃ t, exec .clear (idleState 0#4 [.low]) = .next t) ∧
    (Instr.dataCmdAuto.isWire = true ∧ ∃ t, exec .dataCmdAuto (frameState none []) = .next t) ∧
    ({ idleState 0#4 [] with ackMiss := true } : State).ackMiss = true ∧ (∃ t, exec .start (idleState 0#4 []) = .next t) :=
  ⟨⟨rfl, by decide, _, rfl⟩, ⟨rfl, by decide, _, rfl⟩, ⟨rfl, _, rfl⟩, rfl, _, rfl⟩

theorem witness_EngineLeavesDisplayAlone :
    ∃ t, (idleState 0#4 [.low]).Boundary ∧ Instr.isWire .on = false ∧ exec .on (idleState 0#4 [.low]) = .next t :=
  ⟨_, idle_boundary _ _, rfl, rfl⟩

theorem witness_SessionFramesOnly :
    ∃ t, (idleState 0#4 [.low]).Boundary ∧ Instr.isWire .clear = false ∧ Instr.clear ≠ .stop ∧ exec .clear (idleState 0#4 [.low]) = .next t :=
  ⟨_, idle_boundary _ _, rfl, by decide, rfl⟩

/-- AddressCommandStores: the last register alone, and all six from the first. -/
theorem witness_AddressCommandStores :
    ((5#3 : BitVec 3).toNat ≤ 5 ∧ 1 ≤ (frameState (some .auto) [0x7F#8]).rx.args.length ∧
      (frameState (some .auto) [0x7F#8]).rx.mode = some .auto ∧ (5#3 : BitVec 3).toNat + (frameState (some .auto) [0x7F#8]).rx.args.length ≤ 6) ∧
    ((0#3 : BitVec 3).toNat ≤ 5 ∧ 1 ≤ (frameState (some .auto) (List.replicate 6 1#8)).rx.args.length ∧
      (frameState (some .auto) (List.replicate 6 1#8)).rx.mode = some .auto ∧
      (0#3 : BitVec 3).toNat + (frameState (some .auto) (List.replicate 6 1#8)).rx.args.length ≤ 6) := by decide

/-- AddressCommandSpoils: address 6, no data, FIXED mode, and one byte past register 5. -/
theorem witness_AddressCommandSpoils :
    ¬ ((6#3 : BitVec 3).toNat ≤ 5) ∧ ¬ (1 ≤ (frameState (some .auto) []).rx.args.length) ∧
    ¬ ((frameState (some .fixed) [1#8]).rx.mode = some .auto) ∧
    ¬ ((5#3 : BitVec 3).toNat + (frameState (some .auto) [1#8, 2#8]).rx.args.length ≤ 6) := by decide

theorem witness_OneByteFramesSet : (frameState none []).rx.args = [] := rfl

theorem witness_OneByteFramesWithDataSpoil :
    (frameState none [1#8]).rx.args ≠ [] ∧ (Instr.dataCmdAuto = .dataCmdAuto ∨ Instr.dataCmdAuto = .dataCmdFixed ∨ ∃ on b, Instr.dataCmdAuto = .ctrlCmd on b) :=
  ⟨by decide, .inl rfl⟩

theorem witness_DisplayWriteReachesDisplay :
    ∃ s : State, s.Boundary ∧ s.sess = .idle ∧ s.bus = .idle ∧ s.seq = .rest ∧ s.rx.inbox = [] ∧
      s.host = .command (opWord 0x8#4) :: [] ∧ displayBuffer (decodeCommand (opWord 0x8#4)) = some blankQuad :=
  ⟨{ idleState 0#4 [.low] with host := [.command (opWord 0x8#4)] },
    by constructor <;> simp [idleState, State.reset, samplesOf], rfl, rfl, rfl, rfl, rfl, by decide +kernel⟩

theorem witness_ControlReachesDisplay :
    ∃ s : State, s.Boundary ∧ s.sess = .idle ∧ s.bus = .idle ∧ s.seq = .rest ∧ s.rx.inbox = [] ∧
      s.host = .command (opWord 0x4#4) :: [] ∧ controlValue s.ctl (decodeCommand (opWord 0x4#4)) = some 0b1111#4 :=
  ⟨{ idleState 0b0111#4 [.low] with host := [.command (opWord 0x4#4)] },
    by constructor <;> simp [idleState, State.reset, samplesOf], rfl, rfl, rfl, rfl, rfl, by decide +kernel⟩

/-- PortEncodings: `cmd_ready` 1 at rest, 0 during an operation, and 0 before a reset edge. -/
theorem witness_PortEncodings :
    ((idleState 0#4 []).seq = .rest ∧ ¬ ((idleState 0#4 []).rx.inbox = [] ∧ ∃ evs, (idleState 0#4 []).host = .reset :: evs)) ∧
    busyState.seq ≠ .rest ∧
    (∃ s : State, s.seq = .rest ∧ s.rx.inbox = [] ∧ s.host = .reset :: []) :=
  ⟨⟨rfl, fun ⟨_, evs, h⟩ => nomatch h⟩, by decide +kernel, ⟨{ idleState 0#4 [] with host := [.reset] }, rfl, rfl, rfl⟩⟩

/-- RspValidForOneStep: a step of each kind that ends an operation, and one that does not. -/
theorem witness_RspValidForOneStep :
    (∃ t, step { idleState 0#4 [] with host := [.command (opWord 0xA#4)] } = .next t ∧ t.rspValid = true) ∧
    (∃ t, step { State.reset with host := [.commandByPhase (opWord 0xA#4)] } = .next t ∧ t.seq = .rest ∧ t.rspValid = true) ∧
    (∃ t, step busyState = .next t ∧ t.rspValid = true) ∧
    (∃ t, step stoppingState = .next t ∧ t.rspValid = false) ∧
    (∃ t, step { busyState with host := [.reset] } = .next t ∧ t.rspValid = false) :=
  ⟨⟨_, rfl, by decide +kernel⟩, ⟨_, rfl, by decide +kernel, by decide +kernel⟩, ⟨_, rfl, by decide +kernel⟩,
   ⟨_, rfl, by decide +kernel⟩, ⟨_, rfl, by decide +kernel⟩⟩

/-- PhasePlacesInRange: an operation of three frames, and a phase of the last of them. -/
theorem witness_PhasePlacesInRange :
    ∃ t ps fin, planOf .clear (idleState 0#4 []) = some (.run t ps fin) ∧ ps.length = 218 ∧
      (ps.getLast?.map (fun p => (p.frame, p.byte, p.index))) = some (2, 0, 4) :=
  ⟨_, _, _, rfl, by decide +kernel, by decide +kernel⟩

end Sys2Proof.Tests
end

section
/-! PROOF. No step stops (R10, R208). What an instruction and a step come to is said here once: an instruction performs its plan, or
is a wire command byte and moves the receiver only. -/

namespace Sys2Proof.Machine

/-- A command word's instruction performs its plan (R20); a wire command byte has none and changes the receiver only (R57). -/
theorem exec_cases (i : Instr) (s : State) :
    (∃ p, planOf i s = some p ∧ exec i s = .next p.perform) ∨
      (planOf i s = none ∧ ∃ rx, exec i s = .next (s.received rx)) := by
  cases i with
  | construct | release | brightness | on | off | showText | numbers | clear | raw | start | stop | writeByte
  | reservedOp0 | reservedOpD | reservedOpE | reservedOpF => exact .inl ⟨_, rfl, rfl⟩
  | dataCmdAuto | dataCmdFixed | addrCmd | ctrlCmd => exact .inr ⟨rfl, _, rfl⟩

/-- Every instruction answers in every state; a refused command is a response too (R204). -/
theorem exec_answers (i : Instr) (s : State) : ∃ t, exec i s = .next t := by
  obtain ⟨p, -, h⟩ | ⟨-, rx, h⟩ := exec_cases i s
  · exact ⟨_, h⟩
  · exact ⟨_, h⟩

theorem step_of_fetch_run {s t : State} {i : Instr} (h : s.fetch = .run i t) : step s = exec i t := by
  rw [step, h]

theorem step_of_fetch_done {s t : State} (h : s.fetch = .done t) : step s = .next t := by
  rw [step, h]

/-- Settles O21: the instruction a step executes answers, and a step that executes none is a next state itself. -/
theorem stepAlwaysAnswers : Obligations.StepAlwaysAnswers := by
  intro s
  cases h : s.fetch with
  | run i t =>
    rw [step_of_fetch_run h]
    exact exec_answers i t
  | done t => exact ⟨t, step_of_fetch_done h⟩

end Sys2Proof.Machine
end

section
/-! PROOF. What a step comes to (R20, R24, R25, R58): an equation for each thing the next step can be, and one inversion over all of
them, from which the claims about every step follow. -/

namespace Sys2Proof.Machine

/-! ### Which instructions are wire command bytes -/

/-- No command word is a wire command byte (R80, R82). -/
theorem isWire_decodeCommand (w : CommandWord) : (decodeCommand w).isWire = false := by
  unfold decodeCommand
  split <;> rfl

/-- A byte in command position is a wire command byte (R72). -/
theorem isWire_of_decodeWire {v : Byte} {i : Instr} (h : decodeWire v = .ok i) : i.isWire = true := by
  unfold decodeWire at h
  repeat' split at h
  all_goals cases h
  all_goals rfl

/-- Exactly the wire command bytes have no plan. -/
theorem planOf_eq_none_iff (i : Instr) (s : State) : planOf i s = none ↔ i.isWire = true := by
  cases i <;> simp [planOf, Instr.isWire]

/-- Every instruction of the command port performs its plan (R20). -/
theorem exec_of_command {i : Instr} (s : State) (hi : i.isWire = false) :
    ∃ p, planOf i s = some p ∧ exec i s = .next p.perform := by
  obtain h | ⟨hn, -⟩ := exec_cases i s
  · exact h
  · simp [(planOf_eq_none_iff i s).1 hn] at hi

theorem launch_of_planOf {i : Instr} {s : State} {p : Plan} (h : planOf i s = some p) : s.launch i = p.launch := by
  rw [State.launch, h]

/-! ### The step, one equation for each thing it can be -/

/-- A waiting frame is executed, whatever it is, and nothing else happens but that `rsp_valid` falls (R58, R25). -/
theorem step_frame {s : State} {f : List Byte} {fs : List (List Byte)} (hi : s.rx.inbox = f :: fs) :
    step s = .next { s with rx := ({ s.rx with inbox := fs } : Receiver).frame f, rspValid := false } := by
  have hfetch : s.fetch = s.fetchFrame f fs := by simp only [State.fetch, hi]
  cases f with
  | nil => exact step_of_fetch_done hfetch
  | cons v ds =>
    cases hv : decodeWire v with
    | error e =>
      rw [step_of_fetch_done (t := s.spoiled fs) (by rw [hfetch, State.fetchFrame, hv])]
      simp only [Receiver.frame, hv]
      rfl
    | ok i =>
      rw [step_of_fetch_run (i := i) (t := s.takeFrame ds fs) (by rw [hfetch, State.fetchFrame, hv])]
      have hw := isWire_of_decodeWire hv
      simp only [Receiver.frame, hv]
      cases i with
      | dataCmdAuto | dataCmdFixed | addrCmd | ctrlCmd => rfl
      | _ => cases hw

section
variable {s : State} {evs : List HostEvent} (hi : s.rx.inbox = [])
include hi

theorem fetch_of_inbox_nil : s.fetch = s.fetchEvent := by simp only [State.fetch, hi]

theorem step_idle (hq : s.seq = .rest) (hh : s.host = []) : step s = .next s.tick :=
  step_of_fetch_done (by simp only [fetch_of_inbox_nil hi, State.fetchEvent, hq, hh])

theorem step_wait (hq : s.seq = .rest) (hh : s.host = .wait :: evs) : step s = .next (s.hostThen evs).tick :=
  step_of_fetch_done (by simp only [fetch_of_inbox_nil hi, State.fetchEvent, hq, hh])

theorem step_command {w : CommandWord} (hq : s.seq = .rest) (hh : s.host = .command w :: evs) :
    step s = exec (decodeCommand w) (s.accept evs) :=
  step_of_fetch_run (by simp only [fetch_of_inbox_nil hi, State.fetchEvent, hq, hh])

theorem step_commandByPhase {w : CommandWord} (hq : s.seq = .rest) (hh : s.host = .commandByPhase w :: evs) :
    step s = .next ((s.accept evs).launch (decodeCommand w)) :=
  step_of_fetch_done (by simp only [fetch_of_inbox_nil hi, State.fetchEvent, hq, hh])

/-- A reset edge comes first, at REST and in the middle of an operation (R230, R231). -/
theorem step_reset (hh : s.host = .reset :: evs) : step s = .next (s.hostThen evs).hwReset :=
  step_of_fetch_done (by
    cases hq : s.seq <;> simp only [fetch_of_inbox_nil hi, State.fetchEvent, hq, hh])

/-- A wait passes with the phase. -/
theorem step_busy_wait {p : Phase} {ps : List Phase} {fin : Finish} (hq : s.seq = .busy p ps fin)
    (hh : s.host = .wait :: evs) : step s = .next (s.hostThen evs).advance :=
  step_of_fetch_done (by simp only [fetch_of_inbox_nil hi, State.fetchEvent, hq, hh])

/-- While an operation runs no command is accepted: the step is a phase and what the host does stays (R170). -/
theorem step_busy {p : Phase} {ps : List Phase} {fin : Finish} (hq : s.seq = .busy p ps fin)
    (hw : ∀ evs, s.host ≠ .wait :: evs) (hr : ∀ evs, s.host ≠ .reset :: evs) : step s = .next s.advance :=
  step_of_fetch_done (by
    simp only [fetch_of_inbox_nil hi, State.fetchEvent, hq]
    rcases hh : s.host with _ | ⟨w | w | _ | _, evs⟩
    case cons.wait => exact absurd hh (hw evs)
    case cons.reset => exact absurd hh (hr evs)
    all_goals rfl)

end

/-- Everything a step can come to, and when: `Stepped s t` says that `t` is what one of the model's kinds of step makes of `s`. -/
inductive Stepped (s : State) : State → Prop
  /-- The receiver executes its oldest frame (R58). -/
  | frame (f : List Byte) (fs : List (List Byte)) (hi : s.rx.inbox = f :: fs) :
      Stepped s { s with rx := ({ s.rx with inbox := fs } : Receiver).frame f, rspValid := false }
  /-- A reset edge (R230, R231). -/
  | reset (evs : List HostEvent) (hi : s.rx.inbox = []) (hh : s.host = .reset :: evs) : Stepped s (s.hostThen evs).hwReset
  /-- At REST with nothing at the port (R25). -/
  | idle (hi : s.rx.inbox = []) (hq : s.seq = .rest) (hh : s.host = []) : Stepped s s.tick
  /-- At REST, and the host waits (R25). -/
  | wait (evs : List HostEvent) (hi : s.rx.inbox = []) (hq : s.seq = .rest) (hh : s.host = .wait :: evs) :
      Stepped s (s.hostThen evs).tick
  /-- At REST a whole operation (R20). -/
  | command (w : CommandWord) (evs : List HostEvent) (p : Plan) (hi : s.rx.inbox = []) (hq : s.seq = .rest)
      (hh : s.host = .command w :: evs) (hp : planOf (decodeCommand w) (s.accept evs) = some p) : Stepped s p.perform
  /-- At REST an operation is launched, its phases to come (R20). -/
  | launch (w : CommandWord) (evs : List HostEvent) (p : Plan) (hi : s.rx.inbox = []) (hq : s.seq = .rest)
      (hh : s.host = .commandByPhase w :: evs) (hp : planOf (decodeCommand w) (s.accept evs) = some p) : Stepped s p.launch
  /-- One phase of the operation in progress; a wait of the host passes with it (R27). -/
  | phase (p : Phase) (ps : List Phase) (fin : Finish) (evs : List HostEvent) (hi : s.rx.inbox = [])
      (hq : s.seq = .busy p ps fin) (hh : s.host = .wait :: evs ∨ s.host = evs) (hr : ∀ es, s.host ≠ .reset :: es) :
      Stepped s (s.hostThen evs).advance

/-- The inversion of the step: whatever it answers is one of these. -/
theorem stepped_of_step {s t : State} (h : step s = .next t) : Stepped s t := by
  cases hi : s.rx.inbox with
  | cons f fs =>
    rw [step_frame hi] at h
    cases h
    exact .frame f fs hi
  | nil =>
    by_cases hr : ∃ evs, s.host = .reset :: evs
    · obtain ⟨evs, hh⟩ := hr
      rw [step_reset hi hh] at h
      cases h
      exact .reset evs hi hh
    cases hq : s.seq with
    | rest =>
      rcases hh : s.host with _ | ⟨w | w | _ | _, evs⟩
      · rw [step_idle hi hq hh] at h
        cases h
        exact .idle hi hq hh
      · obtain ⟨p, hp, he⟩ := exec_of_command (s.accept evs) (isWire_decodeCommand w)
        rw [step_command hi hq hh, he] at h
        cases h
        exact .command w evs p hi hq hh hp
      · obtain ⟨p, hp, -⟩ := exec_of_command (s.accept evs) (isWire_decodeCommand w)
        rw [step_commandByPhase hi hq hh, launch_of_planOf hp] at h
        cases h
        exact .launch w evs p hi hq hh hp
      · rw [step_wait hi hq hh] at h
        cases h
        exact .wait evs hi hq hh
      · exact absurd ⟨evs, hh⟩ hr
    | busy p ps fin =>
      have hr' : ∀ es, s.host ≠ .reset :: es := fun es he => hr ⟨es, he⟩
      by_cases hw : ∃ evs, s.host = .wait :: evs
      · obtain ⟨evs, hh⟩ := hw
        rw [step_busy_wait hi hq hh] at h
        cases h
        exact .phase p ps fin evs hi hq (.inl hh) hr'
      · rw [step_busy hi hq (fun es he => hw ⟨es, he⟩) hr'] at h
        cases h
        exact .phase p ps fin s.host hi hq (.inr rfl) hr'

/-! ### The claims about single kinds of step -/

/-- Settles O12: it is the equation of a step that takes a whole command. -/
theorem stepRunsCommand : Obligations.StepRunsCommand :=
  fun _ _ _ hi hq hh => step_command hi hq hh

/-- Settles O16: the equations of the two steps at REST that take no command. -/
theorem stepWaitsForCommand : Obligations.StepWaitsForCommand :=
  ⟨fun _ hi hq hh => step_idle hi hq hh, fun _ _ hi hq hh => step_wait hi hq hh⟩

/-! The end of an operation, field by field (`finish_wire`). -/

@[simp] theorem finish_trace (s : State) (f : Finish) : (s.finish f).trace = s.trace := (finish_wire s f).2.2.1
@[simp] theorem finish_rx (s : State) (f : Finish) : (s.finish f).rx = s.rx := (finish_wire s f).2.2.2.1
@[simp] theorem finish_host (s : State) (f : Finish) : (s.finish f).host = s.host := (finish_wire s f).2.2.2.2.2.1
@[simp] theorem finish_at_rest (s : State) (f : Finish) : (s.finish f).seq = .rest := (finish_wire s f).2.2.2.2.2.2

@[simp] theorem finish_rspValid (s : State) (f : Finish) : (s.finish f).rspValid = true := by
  cases f <;> rfl

/-- A phase emits the line pair it drives, and after it the level it samples, where it takes a sample (R101, R104). -/
theorem runPhase_trace (s : State) (p : Phase) :
    (s.runPhase p).trace = s.trace ++ (.ph (p.clk.getD s.clkDrv) (p.dio.getD s.dioDrv) ::
      if p.sample then [.smp s.env.dioIn] else []) := by
  obtain ⟨part, f, k, i, c, d, smp, e⟩ := p
  cases smp <;> cases e <;> simp [State.runPhase, State.applyEffect]

/-- The last phase of an operation, and its end (R27). -/
theorem advance_last {s : State} {p : Phase} {fin : Finish} (hq : s.seq = .busy p [] fin) :
    s.advance = (s.runPhase p).finish fin := by
  simp only [State.advance, hq]

/-- A phase with another one after it (R27). -/
theorem advance_next {s : State} {p q : Phase} {qs : List Phase} {fin : Finish} (hq : s.seq = .busy p (q :: qs) fin) :
    s.advance = { s.runPhase p with seq := .busy q qs fin, rspValid := false } := by
  simp only [State.advance, hq]

/-- What a phase of an operation in progress adds to the trace is what the phase emits: the end of an operation emits nothing. -/
theorem advance_trace {s : State} {p : Phase} {ps : List Phase} {fin : Finish} (hq : s.seq = .busy p ps fin) :
    s.advance.trace = (s.runPhase p).trace := by
  cases ps with
  | nil => rw [advance_last hq, finish_trace]
  | cons q qs => rw [advance_next hq]

/-- Settles O17: the equations of a launch and of a phase, and what one phase does to the host, the sequencer and the trace. -/
theorem stepAdvancesOnePhase : Obligations.StepAdvancesOnePhase := by
  refine ⟨fun s w evs hi hq hh => step_commandByPhase hi hq hh,
    fun s p ps fin hi hq => ⟨fun hh => ?_, fun evs hh => ?_, fun w evs hh => ?_⟩, fun s p ps fin hq => ?_⟩
  · exact step_busy hi hq (by simp [hh]) (by simp [hh])
  · exact step_busy_wait hi hq hh
  · rcases hh with hh | hh <;> exact step_busy hi hq (by simp [hh]) (by simp [hh])
  · refine ⟨advance_host s, ?_, ?_, _, (advance_trace hq).trans (runPhase_trace s p), ?_⟩
    · rintro rfl
      rw [advance_last hq, finish_at_rest]
    · rintro q qs rfl
      rw [advance_next hq]
    · cases p.sample <;> rfl

end Sys2Proof.Machine
end

section
/-! PROOF. What the plan of an instruction can be, one inversion over all sixteen operations, and what follows from it for every
operation: the two grains of R20, which registers an instruction writes (R188), and when a response is given (R25). -/

namespace Sys2Proof.Machine

/-! ### What a plan can be -/

/-- ON and OFF write the value the claims name (R175, R176). -/
theorem setOn_eq (s : State) (on : Bool) :
    s.setOn on = { s with ctl := if on then s.ctl ||| 0x8#4 else s.ctl &&& 0x7#4 } := by
  have h : ∀ (ctl : BitVec 4) (on : Bool),
      ctlOf on (ctlBright ctl) = if on then ctl ||| 0x8#4 else ctl &&& 0x7#4 := by decide
  rw [State.setOn, h]

/-- BRIGHTNESS writes the value the claims name (R174). -/
theorem setBright_clampLevel (s : State) (level : Byte) :
    s.setBright (clampLevel level) = { s with ctl := (s.ctl &&& 0x8#4) ||| BitVec.ofNat 4 (min level.toNat 7) } := by
  have h : ∀ (ctl : BitVec 4) (n : Fin 8),
      ctlOf (ctlOn ctl) (BitVec.ofNat 3 n.val) = (ctl &&& 0x8#4) ||| BitVec.ofNat 4 n.val := by decide
  have hn := h s.ctl ⟨min level.toNat 7, by omega⟩
  rw [State.setBright, clampLevel, Config.brightMax, hn]

/-- Everything the plan of an instruction can be from a state: a refusal, a CONSTRUCT without the grant, or the phases and the end of
its operation, begun where its `require` line holds (R204). -/
inductive Planned (s : State) : Instr → Plan → Prop
  | refused (i : Instr) (c : Status) : Planned s i (.reply s c)
  | notGranted (hs : s.sess = .uninit) (ha : s.env.acqOk = false) :
      Planned s .construct (.reply s.tookAcq .acquisitionFailure)
  | construct (hs : s.sess = .uninit) (ha : s.env.acqOk = true) :
      Planned s .construct (.run s.tookAcq constructPhases .construct)
  | release (hr : s.ready = true) : Planned s .release (.run s releasePhases .release)
  | start (hr : s.ready = true) : Planned s .start (.run s (startPhases 0) .ok)
  | stop (hm : s.midFrame = true) : Planned s .stop (.run s (stopPhases 0 0) .ok)
  | writeByte (v : Byte) (hm : s.midFrame = true) : Planned s (.writeByte v) (.run s (writePhases 0 0 v) .acks)
  /-- A control operation sends the value of `ctl` it has written (R177, R184). -/
  | control (i : Instr) (ctl : BitVec 4) (hr : s.ready = true) (hi : controlValue s.ctl i = some ctl) :
      Planned s i (controlPlan { s with ctl := ctl })
  /-- A display write sends the buffer it has written (R178, R184). -/
  | display (i : Instr) (q : Quad) (hr : s.ready = true) (hi : displayBuffer i = some q) :
      Planned s i (displayPlan (s.setBuf q))

/-- A plan under a `require` line is a refusal or the plan itself. -/
theorem Planned.require {s : State} {i : Instr} {legal : Bool} {p : Plan} (h : legal = true → Planned s i p) :
    Planned s i (Plan.require legal s p) := by
  cases legal with
  | false => exact .refused i .illegalState
  | true => exact h rfl

theorem planned_construct (s : State) : Planned s .construct (planConstruct s) := by
  refine .require fun hs => ?_
  have hs : s.sess = .uninit := of_decide_eq_true hs
  cases ha : s.env.acqOk with
  | false => exact .notGranted hs ha
  | true => exact .construct hs ha

/-- The inversion of `planOf`. -/
theorem planned_of_planOf {i : Instr} {s : State} {p : Plan} (h : planOf i s = some p) : Planned s i p := by
  cases i with
  | dataCmdAuto | dataCmdFixed | addrCmd | ctrlCmd => cases h
  | construct => cases h; exact planned_construct s
  | release => cases h; exact .require .release
  | start => cases h; exact .require .start
  | stop => cases h; exact .require .stop
  | writeByte v => cases h; exact .require (.writeByte v)
  | reservedOp0 | reservedOpD | reservedOpE | reservedOpF => cases h; exact .refused _ .illegalOp
  | on => cases h; exact .require fun hr => by rw [setOn_eq]; exact .control .on _ hr rfl
  | off => cases h; exact .require fun hr => by rw [setOn_eq]; exact .control .off _ hr rfl
  | brightness level =>
    cases h
    refine .require fun hr => ?_
    simp only [Config.brightPolicy, brightOperand, setBright_clampLevel]
    exact .control (.brightness level) _ hr rfl
  | showText len chars => cases h; exact .require fun hr => .display (.showText len chars) _ hr rfl
  | numbers a b colon => cases h; exact .require fun hr => .display (.numbers a b colon) _ hr rfl
  | clear => cases h; exact .require fun hr => .display .clear _ hr rfl
  | raw segs => cases h; exact .require fun hr => .display (.raw segs) _ hr rfl

/-! ### The two grains of R20 -/

/-- How many phases a plan has. -/
def Plan.length : Plan → Nat
  | .reply _ _ => 0
  | .run _ phases _ => phases.length

theorem phaseCount_of_planOf {i : Instr} {s : State} {p : Plan} (h : planOf i s = some p) : phaseCount i s = p.length := by
  rw [phaseCount, h]
  cases p <;> rfl

/-- However many phases have been run one by one, the operation ends in the same state. -/
theorem complete_advances (n : Nat) (s : State) : (s.advances n).complete = s.complete := by
  induction n generalizing s with
  | zero => rfl
  | succ n ih => rw [State.advances, ih, complete_advance]

/-- As many steps as there are phases bring the sequencer to REST. -/
theorem advances_seq {s : State} {p : Phase} {ps : List Phase} {fin : Finish} (hq : s.seq = .busy p ps fin) :
    (s.advances (ps.length + 1)).seq = .rest := by
  induction ps generalizing s p with
  | nil => simp only [List.length_nil, State.advances, advance_last hq, finish_at_rest]
  | cons q qs ih =>
    rw [State.advances]
    exact ih (p := q) (by rw [advance_next hq])

theorem launch_advances_seq (p : Plan) : (p.launch.advances p.length).seq = .rest := by
  rcases p with ⟨s, c⟩ | ⟨s, _ | ⟨q, qs⟩, fin⟩
  · rfl
  · exact finish_at_rest s.begin fin
  · exact advances_seq (p := q) (ps := qs) (fin := fin) rfl

/-- At REST no operation is in progress. -/
theorem complete_of_rest {s : State} (hq : s.seq = .rest) : s.complete = s := by
  rw [State.complete, hq]

/-- Launched and run phase by phase, a plan gives the state of the whole operation (R20). -/
theorem launch_advances (p : Plan) : p.launch.advances p.length = p.perform :=
  calc p.launch.advances p.length
    _ = (p.launch.advances p.length).complete := (complete_of_rest (launch_advances_seq p)).symm
    _ = p.launch.complete := complete_advances _ _
    _ = p.perform := complete_launch p (perform_seq p)

/-- Settles O26: a plan run phase by phase comes to the state in which it ends, and that is the state of the whole operation. -/
theorem phasesAgreeWithOperation : Obligations.PhasesAgreeWithOperation := by
  intro i s hi
  obtain ⟨p, hp, he⟩ := exec_of_command s hi
  rw [he, launch_of_planOf hp, phaseCount_of_planOf hp, launch_advances]

/-! ### What phases and the end of an operation write -/

/-- A phase writes `ack_miss` by setting it only (R28). -/
theorem runPhase_ackMiss {s : State} (p : Phase) (h : s.ackMiss = true) : (s.runPhase p).ackMiss = true := by
  obtain ⟨part, f, k, i, c, d, smp, e⟩ := p
  cases smp <;> cases e <;> simp [State.runPhase, State.applyEffect, h]

theorem runPhases_ackMiss {s : State} (ps : List Phase) (h : s.ackMiss = true) : (s.runPhases ps).ackMiss = true := by
  induction ps generalizing s with
  | nil => exact h
  | cons p ps ih => exact ih (runPhase_ackMiss p h)

/-- A phase that takes no ACK sample and latches none. -/
def Phase.quiet (p : Phase) : Bool := !p.sample && decide (p.effect ≠ .latchAck)

/-- The ACK flags and the environment's answers are the same in both states. -/
structure SameAcks (s t : State) : Prop where
  lastAck : t.lastAck = s.lastAck
  ackMiss : t.ackMiss = s.ackMiss
  env : t.env = s.env

theorem SameAcks.trans {s t u : State} (h : SameAcks s t) (k : SameAcks t u) : SameAcks s u :=
  ⟨k.lastAck.trans h.lastAck, k.ackMiss.trans h.ackMiss, k.env.trans h.env⟩

theorem runPhase_quiet (s : State) {p : Phase} (h : p.quiet = true) : SameAcks s (s.runPhase p) := by
  obtain ⟨part, f, k, i, c, d, smp, e⟩ := p
  cases smp with
  | true => cases h
  | false =>
    cases e with
    | latchAck => cases h
    | none | openFrame | closeFrame => exact ⟨rfl, rfl, rfl⟩

theorem runPhases_quiet (s : State) {ps : List Phase} (h : ps.all Phase.quiet = true) : SameAcks s (s.runPhases ps) := by
  induction ps generalizing s with
  | nil => exact ⟨rfl, rfl, rfl⟩
  | cons p ps ih =>
    rw [List.all_cons, Bool.and_eq_true] at h
    exact (runPhase_quiet s h.1).trans (ih _ h.2)

/-- Only CONSTRUCT ends with a write to `ctl`, `buf` or the ACK flags (R172). -/
theorem finish_keeps (s : State) {f : Finish} (hf : f ≠ .construct) :
    (s.finish f).ctl = s.ctl ∧ (s.finish f).buf = s.buf ∧ SameAcks s (s.finish f) := by
  cases f with
  | construct => exact absurd rfl hf
  | release | ok | acks => exact ⟨rfl, rfl, rfl, rfl, rfl⟩

section
variable (s : State) (ps : List Phase) (f : Finish)

@[simp] theorem perform_run_host : (Plan.run s ps f).perform.host = s.host :=
  (finish_host _ f).trans (runPhases_sameOutside s.begin ps).host

@[simp] theorem perform_run_ctl (hf : f ≠ .construct) : (Plan.run s ps f).perform.ctl = s.ctl :=
  (finish_keeps _ hf).1.trans (runPhases_sameOutside s.begin ps).ctl

@[simp] theorem perform_run_buf (hf : f ≠ .construct) : (Plan.run s ps f).perform.buf = s.buf :=
  (finish_keeps _ hf).2.1.trans (runPhases_sameOutside s.begin ps).buf

theorem perform_run_ackMiss (hf : f ≠ .construct) (h : s.ackMiss = true) : (Plan.run s ps f).perform.ackMiss = true :=
  (finish_keeps _ hf).2.2.ackMiss.trans (runPhases_ackMiss (s := s.begin) ps h)

theorem perform_run_quiet (hf : f ≠ .construct) (h : ps.all Phase.quiet = true) : SameAcks s (Plan.run s ps f).perform :=
  have hb : SameAcks s s.begin := ⟨rfl, rfl, rfl⟩
  (hb.trans (runPhases_quiet s.begin h)).trans (finish_keeps _ hf).2.2

end

/-! ### What an operation writes -/

section
variable {s : State} {i : Instr} {p : Plan}

/-- No operation touches the host's events. -/
theorem Planned.perform_host (h : Planned s i p) : p.perform.host = s.host := by
  cases h with
  | refused | notGranted => rfl
  | construct | release | start | stop | writeByte | control | display => exact perform_run_host _ _ _

/-- `buf` is written by the display writes and CONSTRUCT (R21). -/
theorem Planned.perform_buf (h : Planned s i p) (hd : (displayBuffer i).isNone = true) (hc : i ≠ .construct) :
    p.perform.buf = s.buf := by
  cases h with
  | refused => rfl
  | notGranted | construct => exact absurd rfl hc
  | display _ q _ hi => simp [hi] at hd
  | release | start | stop | writeByte | control => exact perform_run_buf _ _ _ (by simp)

/-- `ctl` is written by the control operations and CONSTRUCT (R22). -/
theorem Planned.perform_ctl (h : Planned s i p) (hd : (controlValue s.ctl i).isNone = true) (hc : i ≠ .construct) :
    p.perform.ctl = s.ctl := by
  cases h with
  | refused => rfl
  | notGranted | construct => exact absurd rfl hc
  | control _ ctl _ hi => simp [hi] at hd
  | release | start | stop | writeByte | display => exact perform_run_ctl _ _ _ (by simp)

/-- `ack_miss` is sticky but for CONSTRUCT (R28). -/
theorem Planned.perform_ackMiss (h : Planned s i p) (hm : s.ackMiss = true) (hc : i ≠ .construct) :
    p.perform.ackMiss = true := by
  cases h with
  | refused => exact hm
  | notGranted | construct => exact absurd rfl hc
  | release | start | stop | writeByte | control | display => exact perform_run_ackMiss _ _ _ (by simp) hm

/-- START, STOP and RELEASE take no sample (R105, R110, R173). -/
theorem Planned.perform_acks (h : Planned s i p) (hi : i = .start ∨ i = .stop ∨ i = .release) : SameAcks s p.perform := by
  cases h with
  | refused => exact ⟨rfl, rfl, rfl⟩
  | release | start | stop => exact perform_run_quiet _ _ _ (by simp) rfl
  | notGranted | construct | writeByte => simp at hi
  | control _ _ _ hv | display _ _ _ hv => rcases hi with rfl | rfl | rfl <;> cases hv

/-- Phases launched from a state that shows no response give one exactly where there is none to run. -/
theorem launch_run_rspValid (ps : List Phase) (fin : Finish) (hv : s.rspValid = false) :
    (Plan.run s ps fin).launch.rspValid = true ↔ (Plan.run s ps fin).launch.seq = .rest := by
  cases ps with
  | nil => simp [Plan.launch]
  | cons q qs => simp [Plan.launch, hv]

/-- A launched operation gives a response at once exactly where it has no phase to run (R25, R27). -/
theorem Planned.launch_rspValid (h : Planned s i p) (hv : s.rspValid = false) :
    p.launch.rspValid = true ↔ p.launch.seq = .rest := by
  cases h with
  | refused | notGranted => simp [Plan.launch]
  | construct | release | start | stop | writeByte | control | display =>
    exact launch_run_rspValid _ _ hv

end

/-- Settles O48: a wire command byte moves the receiver only, and a command word writes what its plan writes. -/
theorem registerFrame : Obligations.RegisterFrame := by
  intro s t i h
  obtain ⟨p, hp, he⟩ | ⟨hn, rx, he⟩ := exec_cases i s
  · rw [he] at h
    cases h
    have hpl := planned_of_planOf hp
    refine ⟨hpl.perform_host, hpl.perform_buf, hpl.perform_ctl, fun hw => ?_, hpl.perform_ackMiss, fun hi => ?_⟩
    · rw [(planOf_eq_none_iff i s).2 hw] at hp
      cases hp
    · obtain ⟨hl, hm, henv⟩ := hpl.perform_acks hi
      exact ⟨hl, hm, henv⟩
  · rw [he] at h
    cases h
    exact ⟨rfl, fun _ _ => rfl, fun _ _ => rfl, fun _ => rfl, fun hm _ => hm, fun _ => ⟨rfl, rfl, rfl⟩⟩

/-! ### The response -/

/-- Every operation ends with a response (R25). -/
theorem perform_rspValid (p : Plan) : p.perform.rspValid = true := by
  cases p with
  | reply s c => rfl
  | run s ps fin => exact finish_rspValid _ fin

/-- Settles O59: the response each kind of step gives, or does not give. -/
theorem rspValidForOneStep : Obligations.RspValidForOneStep := by
  intro s t h
  cases stepped_of_step h with
  | frame f fs hi => simp [hi]
  | idle hi hq hh => simp [hq, hh]
  | wait evs hi hq hh => simp [hq, hh]
  | reset evs hi hh => simp [hh, State.hwReset, State.reset]
  | command w evs p hi hq hh hp => simp [hi, hq, hh, perform_rspValid]
  | launch w evs p hi hq hh hp =>
    simp [hi, hq, hh, (planned_of_planOf hp).launch_rspValid (accept_rspValid s evs)]
  | phase p ps fin evs hi hq _ hr =>
    rw [advance_rspValid (s.hostThen evs) p ps fin hq]
    cases ps <;> simp [hi, hq, hr]

end Sys2Proof.Machine
end

section
/-! PROOF. The invariants of R31. What an operation comes to at a boundary state is again a boundary state; a step in the middle of an
operation leaves the state in which the operation ends, as far as R31 speaks of it. -/

namespace Sys2Proof.Machine

/-! ### The samples of the transport's events -/

theorem samplesOf_bytesEvents {vs : List Byte} {xs : List Level} (h : vs.length = xs.length) :
    samplesOf (bytesEvents vs xs) = xs := by
  induction vs generalizing xs with
  | nil => rw [List.length_eq_zero_iff.1 h.symm]; rfl
  | cons v vs ih =>
    cases xs with
    | nil => cases h
    | cons x xs =>
      rw [bytesEvents, samplesOf_append, ih (Nat.succ.inj h)]
      rfl

theorem samplesOf_frameEvents {vs : List Byte} {xs : List Level} (h : vs.length = xs.length) :
    samplesOf (frameEvents vs xs) = xs := by
  rw [frameEvents, samplesOf_append, samplesOf_append, samplesOf_bytesEvents h]
  exact List.append_nil xs

@[simp] theorem length_levels (n : Nat) (e : Env) : (e.levels n).length = n := by
  induction n generalizing e with
  | zero => rfl
  | succ n ih => rw [Env.levels, List.length_cons, ih]

/-- The samples of frames are the levels the environment answers, one a byte (R107). -/
theorem samplesOf_framesEvents (frs : List (List Byte)) (e : Env) :
    samplesOf (framesEvents frs e) = e.levels frs.flatten.length := by
  induction frs generalizing e with
  | nil => rfl
  | cons f frs ih =>
    rw [framesEvents, samplesOf_append, samplesOf_frameEvents (length_levels _ _).symm, ih, List.flatten_cons, List.length_append,
      levels_append]

theorem allAcked_iff (xs : List Level) : allAcked xs = true ↔ ∀ x ∈ xs, x = .low := by
  simp [allAcked, ackOf]

/-- R31 (e) as a claim of its own: as long as `ack_miss` is 0 every sample of the trace is an ACK. -/
def State.Sticky (s : State) : Prop := s.ackMiss = false → ∀ x ∈ samplesOf s.trace, x = .low

/-- R31 (e) goes on over events whose samples the flag takes in. -/
theorem State.Sticky.after {s t : State} (h : s.Sticky) {evs : List Event} (htrace : t.trace = s.trace ++ evs)
    (hmiss : t.ackMiss = (s.ackMiss || !allAcked (samplesOf evs))) : t.Sticky := by
  intro ht
  rw [hmiss, Bool.or_eq_false_iff, Bool.not_eq_false', allAcked_iff] at ht
  rw [htrace, samplesOf_append]
  exact List.forall_mem_append.2 ⟨h ht.1, ht.2⟩

/-! ### Boundary states, one rule for each value of the session and the bus -/

section
variable {s t : State}

theorem boundary_idleBus (hs : t.sess = .idle) (hb : t.bus = .idle) (hc : t.clkDrv = .h) (hd : t.dioDrv = .h)
    (hscan : t.rx.scan = .idle) (hst : t.Sticky) : t.Boundary where
  released h := absurd hs h
  idleHigh _ _ := ⟨hc, hd, hscan⟩
  openFrame h := by simp [hb] at h
  sticky := hst
  fresh h := by simp [hs] at h

theorem boundary_openFrame (hs : t.sess = .idle) (hb : t.bus = .frame) (ho : t.inOpenFrame) (hst : t.Sticky) : t.Boundary where
  released h := absurd hs h
  idleHigh _ h := by simp [hb] at h
  openFrame _ := ⟨hs, ho⟩
  sticky := hst
  fresh h := by simp [hs] at h

theorem boundary_released (hs : t.sess = .released) (hb : t.bus = .idle) (hc : t.clkDrv = .z) (hd : t.dioDrv = .z)
    (hscan : t.rx.scan = .idle) (hst : t.Sticky) : t.Boundary where
  released _ := ⟨hc, hd, hb, .inr hscan⟩
  idleHigh h := by simp [hs] at h
  openFrame h := by simp [hb] at h
  sticky := hst
  fresh h := by simp [hs] at h

theorem boundary_uninit (hs : t.sess = .uninit) (hb : t.bus = .idle) (hc : t.clkDrv = .z) (hd : t.dioDrv = .z)
    (hscan : t.rx.scan = .hunting) (htr : t.trace = []) : t.Boundary where
  released _ := ⟨hc, hd, hb, .inl hscan⟩
  idleHigh h := by simp [hs] at h
  openFrame h := by simp [hb] at h
  sticky _ := by simp [htr, samplesOf]
  fresh _ := by simp [htr, samplesOf]

theorem boundary_reset : State.reset.Boundary := boundary_uninit rfl rfl rfl rfl rfl rfl

theorem boundary_hwReset (s : State) : s.hwReset.Boundary := by
  refine boundary_uninit rfl rfl rfl rfl ?_ rfl
  simp only [State.hwReset]
  split <;> rfl

/-- The response is no part of R31. -/
theorem boundary_respond (h : s.Boundary) (c : Status) (a : Bool) : (s.respond c a).Boundary :=
  ⟨h.released, h.idleHigh, h.openFrame, h.sticky, h.fresh⟩

/-! ### The phases of the session's own operations -/

/-- CONSTRUCT's phases (R172) from lines that are not driven, seen by a receiver outside a frame: the lines are idle. -/
theorem runPhases_construct (s : State) (hc : s.clkDrv = .z) (hd : s.dioDrv = .z)
    (hs : s.rx.scan = .hunting ∨ s.rx.scan = .idle) :
    s.runPhases constructPhases = s.wired .h .h s.bus [] s.env [.ph .h .z, .ph .h .h] (s.rx.scanAt .idle) := by
  rcases hs with hs | hs <;>
    simp [constructPhases, plainPhase, State.runPhase, State.applyEffect, State.drive, Receiver.hear, scanStep, hs, isStart,
      clockHigh, hc, hd, State.wired, Receiver.scanAt]

/-- RELEASE's phases (R173) from idle lines: no start condition, so the receiver stays outside a frame. -/
theorem runPhases_release (s : State) (hc : s.clkDrv = .h) (hd : s.dioDrv = .h) (hs : s.rx.scan = .idle) :
    s.runPhases releasePhases = s.wired .z .z s.bus [] s.env [.ph .h .z, .ph .z .z] (s.rx.scanAt .idle) := by
  simp [releasePhases, plainPhase, State.runPhase, State.applyEffect, State.drive, Receiver.hear, scanStep, hs, isStart,
    clockHigh, hc, hd, State.wired, Receiver.scanAt]

/-! ### Every operation keeps R31 at its boundary -/

/-- Frames from idle lines leave the lines idle, and the sticky flag takes in their samples. -/
theorem boundary_sentFrames (h : s.Boundary) (hs : s.sess = .idle) (hb : s.bus = .idle) (frs : List (List Byte)) :
    (s.sentFrames frs).Boundary := by
  obtain ⟨hc, hd, hscan⟩ := h.idleHigh hs hb
  have hst : s.Sticky := h.sticky
  refine boundary_idleBus hs hb hc hd hscan (hst.after rfl ?_)
  rw [samplesOf_framesEvents]
  rfl

theorem boundary_construct (h : s.Boundary) (hs : s.sess = .uninit) :
    (Plan.run s.tookAcq constructPhases .construct).perform.Boundary := by
  obtain ⟨hc, hd, -, hscan⟩ := h.released (by simp [hs])
  rw [Plan.perform, runPhases_construct s.tookAcq.begin hc hd hscan]
  refine boundary_idleBus rfl rfl rfl rfl rfl fun _ => ?_
  simp [State.finish, samplesOf_append, samplesOf, h.fresh hs]

theorem boundary_release (h : s.Boundary) (hs : s.sess = .idle) (hb : s.bus = .idle) :
    (Plan.run s releasePhases .release).perform.Boundary := by
  obtain ⟨hc, hd, hscan⟩ := h.idleHigh hs hb
  have hst : s.Sticky := h.sticky
  rw [Plan.perform, runPhases_release s.begin hc hd hscan]
  exact boundary_released rfl hb rfl rfl rfl (hst.after rfl rfl)

theorem boundary_start (h : s.Boundary) (hs : s.sess = .idle) (hb : s.bus = .idle) :
    (Plan.run s (startPhases 0) .ok).perform.Boundary := by
  obtain ⟨hc, hd, hscan⟩ := h.idleHigh hs hb
  have hst : s.Sticky := h.sticky
  rw [Plan.perform, runPhases_start s.begin 0 hscan hc hd]
  exact boundary_openFrame hs rfl (.inl ⟨rfl, rfl, rfl⟩) (hst.after rfl rfl)

/-- In an open frame DATA is low and the receiver stands at the start of a byte cell (R31 (c)). -/
theorem State.inOpenFrame.atByteCell (h : s.inOpenFrame) : s.dioDrv = .l ∧ ∃ bytes, s.rx.scan = .inFrame [] bytes := by
  obtain ⟨hscan, -, hd⟩ | ⟨v, vs, hscan, -, hd⟩ := h
  · exact ⟨hd, [], hscan⟩
  · exact ⟨hd, v :: vs, hscan⟩

theorem boundary_stop (h : s.Boundary) (hs : s.sess = .idle) (hb : s.bus = .frame) :
    (Plan.run s (stopPhases 0 0) .ok).perform.Boundary := by
  obtain ⟨hd, bytes, hscan⟩ := (h.openFrame hb).2.atByteCell
  have hst : s.Sticky := h.sticky
  rw [Plan.perform, runPhases_stop s.begin 0 0 [] bytes hscan (by simp) hd]
  exact boundary_idleBus hs rfl rfl rfl rfl (hst.after rfl rfl)

theorem boundary_writeByte (h : s.Boundary) (hs : s.sess = .idle) (hb : s.bus = .frame) (v : Byte) :
    (Plan.run s (writePhases 0 0 v) .acks).perform.Boundary := by
  obtain ⟨-, bytes, hscan⟩ := (h.openFrame hb).2.atByteCell
  have hst : s.Sticky := h.sticky
  rw [Plan.perform, runPhases_write s.begin 0 0 v bytes hscan]
  refine boundary_openFrame hs hb (.inr ?_) (hst.after rfl rfl)
  cases bytes with
  | nil => exact ⟨v, [], rfl, rfl, rfl⟩
  | cons u us => exact ⟨u, us ++ [v], rfl, rfl, rfl⟩

/-- Whatever an accepted command comes to, its operation ends in a boundary state. -/
theorem Planned.perform_boundary {i : Instr} {p : Plan} (hp : Planned s i p) (h : s.Boundary) : p.perform.Boundary := by
  cases hp with
  | refused _ c => exact boundary_respond h c true
  | notGranted => exact boundary_respond (s := s.tookAcq) ⟨h.released, h.idleHigh, h.openFrame, h.sticky, h.fresh⟩ _ _
  | construct hs => exact boundary_construct h hs
  | release hr => obtain ⟨hs, hb⟩ := (ready_iff s).1 hr; exact boundary_release h hs hb
  | start hr => obtain ⟨hs, hb⟩ := (ready_iff s).1 hr; exact boundary_start h hs hb
  | stop hm => obtain ⟨hs, hb⟩ := (midFrame_iff s).1 hm; exact boundary_stop h hs hb
  | writeByte v hm => obtain ⟨hs, hb⟩ := (midFrame_iff s).1 hm; exact boundary_writeByte h hs hb v
  | control _ ctl hr =>
    obtain ⟨hs, hb⟩ := (ready_iff s).1 hr
    obtain ⟨hc, hd, hscan⟩ := h.idleHigh hs hb
    rw [perform_controlPlan { s with ctl := ctl } hscan hc hd hb]
    exact boundary_sentFrames (s := { s with ctl := ctl }) ⟨h.released, h.idleHigh, h.openFrame, h.sticky, h.fresh⟩ hs hb _
  | display _ q hr =>
    obtain ⟨hs, hb⟩ := (ready_iff s).1 hr
    obtain ⟨hc, hd, hscan⟩ := h.idleHigh hs hb
    rw [perform_displayPlan (s.setBuf q) hscan hc hd hb]
    exact boundary_sentFrames (s := s.setBuf q) ⟨h.released, h.idleHigh, h.openFrame, h.sticky, h.fresh⟩ hs hb _

end

/-! ### What R31 reads of a state, and of the operation in progress -/

/-- The two states agree in what R31 and the phases to come read. They may differ in `ctl`, `buf`, `last_ack`, the response, the host's
events, and in the receiver but for its scanner. -/
structure SameWire (s t : State) : Prop where
  sess : t.sess = s.sess
  bus : t.bus = s.bus
  seq : t.seq = s.seq
  clkDrv : t.clkDrv = s.clkDrv
  dioDrv : t.dioDrv = s.dioDrv
  ackMiss : t.ackMiss = s.ackMiss
  samples : t.samples = s.samples
  trace : t.trace = s.trace
  scan : t.rx.scan = s.rx.scan
  env : t.env = s.env

namespace SameWire
variable {s t : State}

theorem drive (h : SameWire s t) (c d : Option Drive) : SameWire (s.drive c d) (t.drive c d) := by
  constructor <;> simp [h.sess, h.bus, h.seq, h.clkDrv, h.dioDrv, h.ackMiss, h.samples, h.trace, h.scan, h.env]

theorem sampleDio (h : SameWire s t) : SameWire s.sampleDio t.sampleDio := by
  constructor <;> simp [h.sess, h.bus, h.seq, h.clkDrv, h.dioDrv, h.ackMiss, h.samples, h.trace, h.scan, h.env]

theorem applyEffect (h : SameWire s t) (e : Effect) : SameWire (s.applyEffect e) (t.applyEffect e) := by
  cases e with
  | none => exact h
  | openFrame | closeFrame => exact { h with bus := rfl }
  | latchAck => exact { h with ackMiss := by simp [State.applyEffect, h.ackMiss, h.samples] }

theorem runPhase (h : SameWire s t) (p : Phase) : SameWire (s.runPhase p) (t.runPhase p) := by
  unfold State.runPhase
  split
  · exact (h.drive _ _).sampleDio.applyEffect _
  · exact (h.drive _ _).applyEffect _

theorem runPhases (h : SameWire s t) (ps : List Phase) : SameWire (s.runPhases ps) (t.runPhases ps) := by
  induction ps generalizing s t with
  | nil => exact h
  | cons p ps ih => exact ih (h.runPhase p)

theorem finish (h : SameWire s t) (f : Finish) : SameWire (s.finish f) (t.finish f) := by
  cases f with
  | construct => exact { h with sess := rfl, bus := rfl, seq := rfl, ackMiss := rfl }
  | release => exact { h with sess := rfl, seq := rfl }
  | ok | acks => exact { h with seq := rfl }

/-- The operation in progress ends in both states in the same way. -/
theorem complete (h : SameWire s t) : SameWire s.complete t.complete := by
  unfold State.complete
  rw [h.seq]
  cases s.seq with
  | rest => exact h
  | busy p ps fin => exact (h.runPhases _).finish fin

/-- R31 reads no more of a state than its wire. -/
theorem boundary (h : SameWire s t) (hs : s.Boundary) : t.Boundary := by
  obtain ⟨h1, h2, h3, h4, h5⟩ := hs
  constructor
  · rw [h.sess, h.clkDrv, h.dioDrv, h.bus, h.scan]; exact h1
  · rw [h.sess, h.clkDrv, h.dioDrv, h.bus, h.scan]; exact h2
  · rw [State.inOpenFrame, h.sess, h.clkDrv, h.dioDrv, h.bus, h.scan]; exact h3
  · rw [h.ackMiss, h.trace]; exact h4
  · rw [h.sess, h.trace]; exact h5

/-- A change outside the wire that keeps the form of the display registers keeps the machine's invariant. -/
theorem inv (h : SameWire s t) (hmem : Memory.wf t.rx.mem = true) (hs : s.Inv) : t.Inv :=
  ⟨h.complete.boundary hs.1, hmem⟩

end SameWire

/-! ### The display registers keep their form -/

theorem wf_runPhase (s : State) (p : Phase) (h : Memory.wf s.rx.mem = true) : Memory.wf (s.runPhase p).rx.mem = true := by
  obtain ⟨-, -, hrx, -⟩ := runPhase_wire s p
  rw [hrx]
  exact wf_hear _ _ _ _ _ h

theorem wf_runPhases (s : State) (ps : List Phase) (h : Memory.wf s.rx.mem = true) :
    Memory.wf (s.runPhases ps).rx.mem = true := by
  induction ps generalizing s with
  | nil => exact h
  | cons p ps ih => exact ih _ (wf_runPhase s p h)

theorem wf_advance (s : State) (h : Memory.wf s.rx.mem = true) : Memory.wf s.advance.rx.mem = true := by
  rcases hq : s.seq with _ | ⟨p, _ | ⟨q, qs⟩, fin⟩
  · simpa only [State.advance, hq] using h
  · rw [advance_last hq, finish_rx]
    exact wf_runPhase s p h
  · rw [advance_next hq]
    exact wf_runPhase s p h

theorem wf_hwReset (s : State) (h : Memory.wf s.rx.mem = true) : Memory.wf s.hwReset.rx.mem = true := by
  simp only [State.hwReset]
  split
  · exact h
  · rfl

/-- Executing a frame keeps the form of the display registers, whatever the frame is (R58). -/
theorem wf_frame (rx : Receiver) (f : List Byte) (h : Memory.wf rx.mem = true) : Memory.wf (rx.frame f).mem = true := by
  unfold Receiver.frame
  split
  · rfl
  · split
    · exact wf_dataCommand _ _ h
    · exact wf_dataCommand _ _ h
    · exact wf_addrCommand _ _ h
    · exact wf_ctrlCommand _ _ _ h
    · rfl
    · rfl

/-- Executing a frame does not move the scanner. -/
@[simp] theorem frame_scan (rx : Receiver) (f : List Byte) : (rx.frame f).scan = rx.scan := by
  unfold Receiver.frame
  split
  · rfl
  · split
    · unfold Receiver.dataCommand; split <;> rfl
    · unfold Receiver.dataCommand; split <;> rfl
    · unfold Receiver.addrCommand; split <;> rfl
    · unfold Receiver.ctrlCommand; split <;> rfl
    · rfl
    · rfl

theorem wf_perform_run (s : State) (ps : List Phase) (f : Finish) (h : Memory.wf s.rx.mem = true) :
    Memory.wf (Plan.run s ps f).perform.rx.mem = true := by
  rw [Plan.perform, finish_rx]
  exact wf_runPhases s.begin ps h

theorem launch_run_rx (s : State) (ps : List Phase) (f : Finish) : (Plan.run s ps f).launch.rx = s.rx := by
  cases ps with
  | nil => exact finish_rx s.begin f
  | cons => rfl

section
variable {s : State} {i : Instr} {p : Plan}

theorem Planned.wf_perform (hp : Planned s i p) (h : Memory.wf s.rx.mem = true) : Memory.wf p.perform.rx.mem = true := by
  cases hp with
  | refused | notGranted => exact h
  | construct | release | start | stop | writeByte | control | display => exact wf_perform_run _ _ _ h

/-- The launch of an operation moves no line, so the receiver hears nothing. -/
theorem Planned.launch_rx (hp : Planned s i p) : p.launch.rx = s.rx := by
  cases hp with
  | refused | notGranted => rfl
  | construct | release | start | stop | writeByte | control | display => exact launch_run_rx _ _ _

end

/-! ### The invariant at reset and after every step -/

/-- Settles O22: at reset nothing is in progress, nothing is driven and nothing was emitted. -/
theorem invariantAtReset : Obligations.InvariantAtReset :=
  ⟨⟨boundary_reset, wf_reset⟩, rfl, rfl⟩

/-- At REST the invariant speaks of the state itself. -/
theorem State.Inv.boundary {s : State} (h : s.Inv) (hq : s.seq = .rest) : s.Boundary := by
  rw [← complete_of_rest hq]
  exact h.1

/-- What a step changes where no line moves and no command is taken: the receiver but for its scanner, `rsp_valid`, the host's list. -/
theorem sameWire_outside (s : State) {rx : Receiver} (hscan : rx.scan = s.rx.scan) (v : Bool) (evs : List HostEvent) :
    SameWire s { s with rx := rx, rspValid := v, host := evs } :=
  ⟨rfl, rfl, rfl, rfl, rfl, rfl, rfl, rfl, hscan, rfl⟩

/-- Settles O23: a step that moves no line leaves what R31 reads; an operation accepted whole or by phases ends in a boundary state;
a phase leaves the state in which its operation ends; and after a reset edge nothing is in progress. -/
theorem stepKeepsInvariant : Obligations.StepKeepsInvariant := by
  intro s t hs h
  have ⟨hboundary, hmem⟩ := hs
  cases stepped_of_step h with
  | frame f fs hi =>
    exact (sameWire_outside s (frame_scan { s.rx with inbox := fs } f) false s.host).inv (wf_frame _ f hmem) hs
  | idle => exact (sameWire_outside s rfl false s.host).inv hmem hs
  | wait evs => exact (sameWire_outside s rfl false evs).inv hmem hs
  | reset evs => exact ⟨boundary_hwReset _, wf_hwReset (s.hostThen evs) hmem⟩
  | command w evs p _ hq _ hp =>
    have hpl := planned_of_planOf hp
    have hb := (sameWire_outside s rfl false evs).boundary (hs.boundary hq)
    refine ⟨?_, hpl.wf_perform hmem⟩
    rw [complete_of_rest (perform_seq p)]
    exact hpl.perform_boundary hb
  | launch w evs p _ hq _ hp =>
    have hpl := planned_of_planOf hp
    have hb := (sameWire_outside s rfl false evs).boundary (hs.boundary hq)
    refine ⟨?_, by rw [hpl.launch_rx]; exact hmem⟩
    rw [complete_launch p (perform_seq p)]
    exact hpl.perform_boundary hb
  | phase p ps fin evs =>
    have hw : SameWire s (s.hostThen evs) := sameWire_outside s rfl s.rspValid evs
    refine ⟨?_, wf_advance (s.hostThen evs) hmem⟩
    rw [complete_advance]
    exact hw.complete.boundary hboundary

end Sys2Proof.Machine
end

section
/-! PROOF. The registers after reset and after CONSTRUCT (R33), and the output ports as functions of the state (R23, R25). -/

namespace Sys2Proof.Machine

/-- CONSTRUCT with the lines granted runs its two phases, whatever the lines were (R172). -/
theorem exec_construct_granted {s : State} (hs : s.sess = .uninit) (ha : s.env.acqOk = true) :
    exec .construct s = .next (Plan.run s.tookAcq constructPhases .construct).perform := by
  have hp : planConstruct s = .run s.tookAcq constructPhases .construct := by simp [planConstruct, hs, ha]
  rw [← hp]
  rfl

/-- Settles O18: reset writes every register, CONSTRUCT's phases drive both lines high and its end writes the rest. -/
theorem resetValues : Obligations.ResetValues := by
  refine ⟨rfl, rfl, rfl, rfl, rfl, rfl, rfl, rfl, rfl, rfl, rfl, rfl, rfl, rfl, fun _ => rfl, rfl, rfl, fun s t hs ha h => ?_⟩
  rw [exec_construct_granted hs ha] at h
  cases h
  exact ⟨rfl, rfl, rfl, rfl, rfl, rfl, rfl, rfl, rfl, rfl, rfl, rfl⟩

/-- `rst_n` is low exactly where the next step is a reset edge (R230). -/
theorem rstN_iff (s : State) : s.rstN = true ↔ ¬ (s.rx.inbox = [] ∧ ∃ evs, s.host = .reset :: evs) := by
  unfold State.rstN
  split
  · rename_i evs hi hh
    exact iff_of_false Bool.false_ne_true (not_not_intro ⟨hi, evs, hh⟩)
  · rename_i hne
    refine iff_of_true rfl ?_
    rintro ⟨hi, evs, hh⟩
    exact hne evs hi hh

/-- `cmd_ready` is 1 exactly at REST out of reset (R25, R230). -/
theorem cmdReady_iff (s : State) : s.cmdReady = true ↔ s.seq = .rest ∧ s.rstN = true := by
  unfold State.cmdReady
  cases s.seq <;> simp

/-- Settles O58: the codes are the tables', `cmd_ready` is 1 at REST out of reset, the bytes of `buf` stand in `buf_q` as those of a
command word's `data` field, and every other port shows its register. -/
theorem portEncodings : Obligations.PortEncodings := by
  refine ⟨rfl, rfl, rfl, rfl, fun s => ⟨?_, rfl, rfl, rfl, rfl, rfl, rfl, rfl, rfl, rfl, rfl, rfl, rfl, ?_⟩⟩
  · exact (cmdReady_iff s).trans (and_congr_right fun _ => rstN_iff s)
  · have hbuf := quadOfBits_toBits s.buf
    exact ⟨congrArg Quad.b0 hbuf, congrArg Quad.b1 hbuf, congrArg Quad.b2 hbuf, congrArg Quad.b3 hbuf⟩

end Sys2Proof.Machine
end

section
/-! PROOF. The trace and the wire (R59, R60): what the trace tells stays what the receiver and the lines are; and the display registers keep
their form, whatever a step does. -/

namespace Sys2Proof.Machine

/-! ### What the trace tells is the receiver's place and the lines -/

section
variable {s t : State}

/-- What the trace tells is read off the scanner, the lines and the trace alone. -/
theorem State.TraceTold.of_eq (h : s.TraceTold) (hscan : t.rx.scan = s.rx.scan) (hc : t.clkDrv = s.clkDrv)
    (hd : t.dioDrv = s.dioDrv) (htr : t.trace = s.trace) : t.TraceTold := by
  rw [State.TraceTold, hscan, hc, hd, htr]
  exact h

/-- One more pair of lines, heard by the receiver and told by the trace (R60, R101). -/
theorem traceTold_runPhase (h : s.TraceTold) (p : Phase) : (s.runPhase p).TraceTold := by
  obtain ⟨hscan, hlines⟩ := h
  obtain ⟨hc, hd, hrx, htr⟩ := runPhase_wire s p
  rw [State.TraceTold, hc, hd, hrx, htr, hear_scan, pairsOf_append]
  refine ⟨?_, by simp [pairsOf]⟩
  rw [pairsOf, pairsOf, extractFrom_append, ← hscan, ← hlines]

theorem traceTold_runPhases (h : s.TraceTold) (ps : List Phase) : (s.runPhases ps).TraceTold := by
  induction ps generalizing s with
  | nil => exact h
  | cons p ps ih => exact ih (traceTold_runPhase h p)

theorem traceTold_finish (h : s.TraceTold) (f : Finish) : (s.finish f).TraceTold := by
  obtain ⟨hc, hd, htr, hrx, -⟩ := finish_wire s f
  exact h.of_eq (congrArg Receiver.scan hrx) hc hd htr

theorem traceTold_perform_run (s : State) (ps : List Phase) (f : Finish) (h : s.TraceTold) :
    (Plan.run s ps f).perform.TraceTold :=
  traceTold_finish (traceTold_runPhases (s := s.begin) h ps) f

theorem traceTold_launch_run (s : State) (ps : List Phase) (f : Finish) (h : s.TraceTold) :
    (Plan.run s ps f).launch.TraceTold := by
  cases ps with
  | nil => exact traceTold_finish (s := s.begin) h f
  | cons => exact h

theorem traceTold_advance (h : s.TraceTold) : s.advance.TraceTold := by
  rcases hq : s.seq with _ | ⟨p, _ | ⟨q, qs⟩, fin⟩
  · simpa only [State.advance, hq] using h
  · rw [advance_last hq]
    exact traceTold_finish (traceTold_runPhase h p) fin
  · rw [advance_next hq]
    exact traceTold_runPhase h p

/-- A reset edge begins the trace anew, with lines that are not driven and a receiver that waits for an idle pair. -/
theorem traceTold_hwReset (s : State) : s.hwReset.TraceTold := by
  refine ⟨?_, rfl⟩
  simp only [State.hwReset]
  split <;> rfl

variable {i : Instr} {p : Plan}

/-- What an operation writes before its phases is no part of the wire. -/
theorem Planned.perform_traceTold (hp : Planned s i p) (h : s.TraceTold) : p.perform.TraceTold := by
  cases hp with
  | refused | notGranted => exact h
  | construct | release | start | stop | writeByte | control | display => exact traceTold_perform_run _ _ _ h

theorem Planned.launch_traceTold (hp : Planned s i p) (h : s.TraceTold) : p.launch.TraceTold := by
  cases hp with
  | refused | notGranted => exact h
  | construct | release | start | stop | writeByte | control | display => exact traceTold_launch_run _ _ _ h

end

/-- Settles O25: a phase adds to the trace the pair that the receiver hears, a reset edge starts both anew, and every other step moves
neither the lines nor the scanner. -/
theorem stepKeepsTraceTold : Obligations.StepKeepsTraceTold := by
  intro s t hs h
  cases stepped_of_step h with
  | frame f fs => exact hs.of_eq (frame_scan { s.rx with inbox := fs } f) rfl rfl rfl
  | idle | wait => exact hs
  | reset evs => exact traceTold_hwReset _
  | command w evs p _ _ _ hp => exact (planned_of_planOf hp).perform_traceTold hs
  | launch w evs p _ _ _ hp => exact (planned_of_planOf hp).launch_traceTold hs
  | phase p ps fin evs => exact traceTold_advance (s := s.hostThen evs) hs

/-- Settles O24: the frames the receiver executes and the lines it hears keep the form of the display registers, a reset edge keeps or
forgets them, and nothing else of a step touches them. -/
theorem stepKeepsDisplayMemory : Obligations.StepKeepsDisplayMemory := by
  intro s t hs h
  cases stepped_of_step h with
  | frame f fs => exact wf_frame { s.rx with inbox := fs } f hs
  | idle | wait => exact hs
  | reset evs => exact wf_hwReset (s.hostThen evs) hs
  | command w evs p _ _ _ hp => exact (planned_of_planOf hp).wf_perform hs
  | launch w evs p _ _ _ hp =>
    rw [(planned_of_planOf hp).launch_rx]
    exact hs
  | phase p ps fin evs => exact wf_advance (s.hostThen evs) hs

end Sys2Proof.Machine
end

section
/-! PROOF. The receiver's commands (R57, R58): what each does to a frame of its kind and to every other, what executing a frame keeps,
and that the frames of a display write set the receiver to what they say, once or twice. -/

namespace Sys2Proof.Machine

/-! ### The four commands, case by case -/

section
variable {rx : Receiver}

/-- The condition under which an address frame stores (R58). -/
theorem stores_iff (rx : Receiver) (a : Nat) :
    rx.stores a = true ↔ a ≤ 5 ∧ 1 ≤ rx.args.length ∧ rx.mode = some .auto ∧ a + rx.args.length ≤ 6 := by
  simp only [Receiver.stores, Bool.and_eq_true, decide_eq_true_eq, and_assoc]
  rfl

theorem addrCommand_of_stores {a : Nat} (h : rx.stores a = true) :
    rx.addrCommand a = { rx with mem := Memory.writeFrom rx.mem a rx.args } := by
  rw [Receiver.addrCommand, if_pos h]

theorem addrCommand_of_not_stores {a : Nat} (h : ¬ rx.stores a = true) : rx.addrCommand a = rx.forget := by
  rw [Receiver.addrCommand, if_neg h]

theorem dataCommand_of_no_data (h : rx.args = []) (mode : AddrMode) : rx.dataCommand mode = { rx with mode := some mode } := by
  rw [Receiver.dataCommand, if_pos h]

theorem dataCommand_of_data (h : rx.args ≠ []) (mode : AddrMode) : rx.dataCommand mode = rx.forget := by
  rw [Receiver.dataCommand, if_neg h]

theorem ctrlCommand_of_no_data (h : rx.args = []) (on : Bool) (b : BitVec 3) :
    rx.ctrlCommand on b = { rx with on := some on, bright := some b } := by
  rw [Receiver.ctrlCommand, if_pos h]

theorem ctrlCommand_of_data (h : rx.args ≠ []) (on : Bool) (b : BitVec 3) : rx.ctrlCommand on b = rx.forget := by
  rw [Receiver.ctrlCommand, if_neg h]

/-- With no data bytes in hand there are none to drop. -/
theorem received_of_no_data (s : State) (rx : Receiver) (h : rx.args = []) : s.received rx = { s with rx := rx } := by
  rw [State.received, Receiver.done, ← h]

end

/-! ### The wire commands as instructions -/

theorem exec_dataCmdAuto (s : State) : exec .dataCmdAuto s = .next (s.received (s.rx.dataCommand .auto)) := rfl

theorem exec_dataCmdFixed (s : State) : exec .dataCmdFixed s = .next (s.received (s.rx.dataCommand .fixed)) := rfl

theorem exec_addrCmd (a : BitVec 3) (s : State) : exec (.addrCmd a) s = .next (s.received (s.rx.addrCommand a.toNat)) := rfl

theorem exec_ctrlCmd (on : Bool) (b : BitVec 3) (s : State) :
    exec (.ctrlCmd on b) s = .next (s.received (s.rx.ctrlCommand on b)) := rfl

/-- Settles O51: the frame's bytes are written one after another from register `a` on, and a read finds them there. -/
theorem addressCommandStores : Obligations.AddressCommandStores := by
  intro s a ha hlen hmode hfit
  refine ⟨_, exec_addrCmd a s, ?_⟩
  rw [addrCommand_of_stores ((stores_iff s.rx a.toNat).2 ⟨ha, hlen, hmode, hfit⟩)]
  refine ⟨rfl, fun i hi => ?_, fun x hx => ?_⟩
  · refine (read_writeFrom s.rx.mem a.toNat s.rx.args _).trans ?_
    rw [dif_pos ⟨by omega, by omega⟩]
    simp
  · refine (read_writeFrom s.rx.mem a.toNat s.rx.args x).trans ?_
    rw [dif_neg (by omega)]

/-- Settles O52: an address frame that does not store makes the receiver forget. -/
theorem addressCommandSpoils : Obligations.AddressCommandSpoils := by
  intro s a h
  rw [exec_addrCmd, addrCommand_of_not_stores fun hs => h ((stores_iff s.rx a.toNat).1 hs)]
  rfl

/-- Settles O53: a one-byte frame sets what its byte says. -/
theorem oneByteFramesSet : Obligations.OneByteFramesSet := by
  intro s h
  refine ⟨?_, ?_, fun on b => ?_⟩
  · rw [exec_dataCmdAuto, dataCommand_of_no_data h, received_of_no_data s { s.rx with mode := some .auto } h]
  · rw [exec_dataCmdFixed, dataCommand_of_no_data h, received_of_no_data s { s.rx with mode := some .fixed } h]
  · rw [exec_ctrlCmd, ctrlCommand_of_no_data h,
      received_of_no_data s { s.rx with on := some on, bright := some b } h]

/-- Settles O54: with data bytes after it, a one-byte command makes the receiver forget. -/
theorem oneByteFramesWithDataSpoil : Obligations.OneByteFramesWithDataSpoil := by
  rintro s i h (rfl | rfl | ⟨on, b, rfl⟩)
  · rw [exec_dataCmdAuto, dataCommand_of_data h]; rfl
  · rw [exec_dataCmdFixed, dataCommand_of_data h]; rfl
  · rw [exec_ctrlCmd, ctrlCommand_of_data h]; rfl

/-! ### Executing a frame -/

/-- A frame with no byte, and one whose first byte is no command, make the receiver forget (R58). -/
theorem frame_of_undecodable (rx : Receiver) {f : List Byte} (h : ∀ v ds, f = v :: ds → ∃ e, decodeWire v = .error e) :
    rx.frame f = rx.forget.done := by
  cases f with
  | nil => rfl
  | cons v ds =>
    obtain ⟨e, he⟩ := h v ds rfl
    simp only [Receiver.frame, he]

/-- The condition under which an address frame stores does not read the frames that wait. -/
theorem addrCommand_behind (rx : Receiver) (a : Nat) (fs : List (List Byte)) :
    ({ rx with inbox := fs } : Receiver).addrCommand a = { rx.addrCommand a with inbox := fs } := by
  by_cases h : rx.stores a = true
  · rw [addrCommand_of_stores h]
    exact addrCommand_of_stores h
  · rw [addrCommand_of_not_stores h]
    exact addrCommand_of_not_stores h

/-- Executing a frame neither reads nor writes the frames that wait behind it. -/
theorem frame_behind (rx : Receiver) (f : List Byte) (fs : List (List Byte)) :
    ({ rx with inbox := fs } : Receiver).frame f = { rx.frame f with inbox := fs } := by
  cases f with
  | nil => rfl
  | cons v ds =>
    simp only [Receiver.frame]
    rcases decodeWire v with e | i
    · rfl
    · cases i with
      | dataCmdAuto | dataCmdFixed => simp only [Receiver.dataCommand]; split <;> rfl
      | addrCmd a => exact congrArg Receiver.done (addrCommand_behind { rx with args := ds } a.toNat fs)
      | ctrlCmd on b => simp only [Receiver.ctrlCommand]; split <;> rfl
      | _ => rfl

/-! ### A step on a frame -/

/-- Settles O15: it is the equation of a step with a frame at the receiver. -/
theorem stepExecutesFrame : Obligations.StepExecutesFrame :=
  fun _ _ _ hi => step_frame hi

/-- Settles O13: the first byte's command is what the step fetches. -/
theorem stepRunsFrame : Obligations.StepRunsFrame := by
  intro s v ds fs i hi hv
  have hfetch : s.fetch = .run i (s.takeFrame ds fs) := by simp only [State.fetch, hi, State.fetchFrame, hv]
  exact step_of_fetch_run hfetch

/-- Settles O14: executing a frame that is no command makes the receiver forget. -/
theorem stepSpoilsUnknownFrame : Obligations.StepSpoilsUnknownFrame := by
  intro s f fs hi hf
  rw [step_frame hi, frame_of_undecodable _ hf]
  rfl

/-! ### The frames of a display write -/

/-- The frame `[0x40]` (R72, R58). -/
theorem frame_data (rx : Receiver) : rx.frame [0x40#8] = { rx with mode := some .auto, args := [] } := rfl

/-- The frame of a display write's four bytes (R73, R58), in AUTO mode. -/
theorem frame_addr {rx : Receiver} (h : rx.mode = some .auto) (q : Quad) :
    rx.frame [0xC0#8, q.b0, q.b1, q.b2, q.b3] =
      { rx with mem := Memory.writeFrom rx.mem 0 q.toList, args := [] } := by
  have hv : decodeWire 0xC0#8 = .ok (.addrCmd 0#3) := rfl
  have hs : ({ rx with args := q.toList } : Receiver).stores 0 = true := by
    rw [stores_iff]
    exact ⟨by omega, by simp [Quad.toList], h, by simp [Quad.toList]⟩
  simp only [Receiver.frame, hv]
  exact congrArg Receiver.done (addrCommand_of_stores hs)

/-- A control byte decodes to the fields of `ctl` (R74, R77). -/
theorem decodeWire_ctrl (ctl : BitVec 4) :
    decodeWire (0x80#8 ||| ctl.setWidth 8) = .ok (.ctrlCmd (ctl.getLsbD 3) (ctl.setWidth 3)) := by
  revert ctl; decide

/-- The frame of a control byte (R74, R58). -/
theorem frame_ctrl (rx : Receiver) (ctl : BitVec 4) :
    rx.frame [0x80#8 ||| ctl.setWidth 8] =
      { rx with on := some (ctl.getLsbD 3), bright := some (ctl.setWidth 3), args := [] } := by
  simp only [Receiver.frame, decodeWire_ctrl]
  rfl

/-- What the three frames of a display write leave in the receiver, whatever it held before (R58, R77). -/
theorem frames_displayFrames (rx : Receiver) (q : Quad) (ctl : BitVec 4) :
    rx.frames (displayFrames q ctl) =
      { rx with
        args := []
        mode := some .auto
        mem := Memory.writeFrom rx.mem 0 q.toList
        on := some (ctl.getLsbD 3)
        bright := some (ctl.setWidth 3) } := by
  simp only [Receiver.frames, displayFrames, List.foldl, frame_data]
  rw [frame_addr rfl, frame_ctrl]

/-! ### Writing the same registers twice, in lists of any form -/

theorem write_write_same (m : Memory) (x : Nat) (v : Byte) : Memory.write (Memory.write m x v) x v = Memory.write m x v := by
  induction m with
  | nil => simp [Memory.write]
  | cons cell m ih =>
    obtain ⟨a, w⟩ := cell
    rcases lt_trichotomy x a with h | rfl | h
    · simp [Memory.write, h]
    · simp [Memory.write]
    · simp [Memory.write, h.not_gt, h.ne', ih]

/-- Writes of different registers may change places. -/
theorem write_comm (m : Memory) {x y : Nat} (h : x < y) (v w : Byte) :
    Memory.write (Memory.write m y w) x v = Memory.write (Memory.write m x v) y w := by
  induction m with
  | nil => simp [Memory.write, h, h.not_gt, h.ne']
  | cons cell m ih =>
    obtain ⟨a, u⟩ := cell
    rcases lt_trichotomy x a with hx | rfl | hx
    · rcases lt_trichotomy y a with hy | rfl | hy
      · simp [Memory.write, *, h.not_gt, h.ne']
      · simp [Memory.write, *, h.not_gt, h.ne']
      · simp [Memory.write, *, h.not_gt, h.ne', hy.not_gt, hy.ne']
    · simp [Memory.write, h.not_gt, h.ne']
    · have hy : a < y := hx.trans h
      simp [Memory.write, hx.not_gt, hx.ne', hy.not_gt, hy.ne', ih]

theorem write_writeFrom (m : Memory) {x a : Nat} (h : x < a) (v : Byte) (vs : List Byte) :
    Memory.write (Memory.writeFrom m a vs) x v = Memory.writeFrom (Memory.write m x v) a vs := by
  induction vs generalizing m a with
  | nil => rfl
  | cons w vs ih => rw [Memory.writeFrom, ih _ (by omega), write_comm m h, ← Memory.writeFrom]

/-- The bytes of a frame stored twice are the bytes stored once. -/
theorem writeFrom_writeFrom (m : Memory) (a : Nat) (vs : List Byte) :
    Memory.writeFrom (Memory.writeFrom m a vs) a vs = Memory.writeFrom m a vs := by
  induction vs generalizing m a with
  | nil => rfl
  | cons v vs ih =>
    simp only [Memory.writeFrom]
    rw [write_writeFrom _ (Nat.lt_succ_self a), write_write_same, ih]

/-- Settles O55: what the three frames leave is set by the frames, but for the registers they do not write. -/
theorem displayWriteIdempotent : Obligations.DisplayWriteIdempotent := by
  intro rx q ctl
  simp only [frames_displayFrames, writeFrom_writeFrom]

end Sys2Proof.Machine
end

section
/-! PROOF. What the engine's operations bring to the receiver (R59, R61, R177, R178): a frame sent by hand, the frames of a control
operation and of a display write, and that nothing but the frames behind those that wait is new at the receiver until it executes them. -/

namespace Sys2Proof.Machine

/-! ### The transport's operations where they are legal -/

theorem exec_of_planOf {i : Instr} {s : State} {p : Plan} (h : planOf i s = some p) : exec i s = .next p.perform := by
  obtain ⟨p', hp, he⟩ | ⟨hn, -⟩ := exec_cases i s
  · cases hp.symm.trans h
    exact he
  · cases hn.symm.trans h

section
variable {s : State}

/-- START from idle lines (R105). -/
theorem exec_start_of_idle (hs : s.sess = .idle) (hb : s.bus = .idle) (hscan : s.rx.scan = .idle) (hc : s.clkDrv = .h)
    (hd : s.dioDrv = .h) :
    exec .start s = .next
      ((s.begin.wired .h .l .frame [] s.env [.ph .h .l] (s.rx.scanAt (.inFrame [] []))).respond .ok true) := by
  have hp : planOf .start s = some (.run s (startPhases 0) .ok) := by
    simp only [planOf, planStart, (ready_iff s).2 ⟨hs, hb⟩, perform_require_true]
  rw [exec_of_planOf hp, Plan.perform, runPhases_start s.begin 0 hscan hc hd]
  rfl

/-- WRITEBYTE in an open frame, at the start of a byte cell (R107). -/
theorem exec_writeByte_of_open (hs : s.sess = .idle) (hb : s.bus = .frame) (v : Byte) {bytes : List Byte}
    (hscan : s.rx.scan = .inFrame [] bytes) :
    exec (.writeByte v) s = .next
      ((s.begin.wired .l .l .frame [s.env.dioIn] s.env.afterDio (writeByteEvents s.dioDrv v s.env.dioIn)
        (s.rx.scanAt (.inFrame [] (bytes ++ [v])))).respond (ackStatus (allAcked [s.env.dioIn])) (allAcked [s.env.dioIn])) := by
  have hp : planOf (.writeByte v) s = some (.run s (writePhases 0 0 v) .acks) := by
    simp only [planOf, planWriteByte, (midFrame_iff s).2 ⟨hs, hb⟩, perform_require_true]
  rw [exec_of_planOf hp, Plan.perform, runPhases_write s.begin 0 0 v bytes hscan, begin_bus, hb]
  rfl

/-- STOP in an open frame, at the start of a byte cell (R110). -/
theorem exec_stop_of_open (hs : s.sess = .idle) (hb : s.bus = .frame) (hd : s.dioDrv = .l) {bytes : List Byte}
    (hscan : s.rx.scan = .inFrame [] bytes) :
    exec .stop s = .next
      ((s.begin.wired .h .h .idle [] s.env [.ph .l .l, .ph .l .l, .ph .h .l, .ph .h .h]
        ((s.rx.gets [bytes]).scanAt .idle)).respond .ok true) := by
  have hp : planOf .stop s = some (.run s (stopPhases 0 0) .ok) := by
    simp only [planOf, planStop, (midFrame_iff s).2 ⟨hs, hb⟩, perform_require_true]
  rw [exec_of_planOf hp, Plan.perform, runPhases_stop s.begin 0 0 [] bytes hscan (by simp) hd]
  rfl

/-! ### A frame by hand -/

/-- An operation after another one begins with no sample and gives its own response; the wire, the flags and the receiver go on from
where the first operation left them. -/
theorem wired_respond_wired (s : State) (c d c' d' : Drive) (b b' : Bus) (xs xs' : List Level) (e e' : Env)
    (evs evs' : List Event) (r r' : Receiver) (st st' : Status) (a a' : Bool) :
    ((((s.begin.wired c d b xs e evs r).respond st a).wired c' d' b' xs' e' evs' r').begin).respond st' a' =
      ((s.wired c' d' b' (xs ++ xs') e' (evs ++ evs') r').begin).respond st' a' := by
  simp [State.wired, State.begin, State.respond, ackAfter_append, allAcked_append, Bool.or_assoc]

theorem execAll_cons {i : Instr} {is : List Instr} {s t : State} (h : exec i s = .next t) :
    execAll (i :: is) s = execAll is t := by
  rw [execAll, h]

/-- The bytes of a frame by hand and its STOP, in an open frame with DATA low. -/
theorem execAll_writeBytes_stop (vs : List Byte) {s : State} {bytes : List Byte} (hs : s.sess = .idle) (hb : s.bus = .frame)
    (hd : s.dioDrv = .l) (hscan : s.rx.scan = .inFrame [] bytes) :
    execAll (vs.map .writeByte ++ [.stop]) s = .next
      (((s.wired .h .h .idle (s.env.levels vs.length) (s.env.afterDios vs.length)
        (bytesEvents vs (s.env.levels vs.length) ++ [.ph .l .l, .ph .l .l, .ph .h .l, .ph .h .h])
        ((s.rx.gets [bytes ++ vs]).scanAt .idle)).begin).respond .ok true) := by
  induction vs generalizing s bytes with
  | nil =>
    rw [List.map_nil, List.nil_append, execAll_cons (exec_stop_of_open hs hb hd hscan), List.append_nil]
    simp [execAll, State.wired, State.begin, Env.levels, Env.afterDios, bytesEvents]
  | cons v vs ih =>
    rw [List.map_cons, List.cons_append, execAll_cons (exec_writeByte_of_open hs hb v hscan),
      ih (bytes := bytes ++ [v]), wired_respond_wired]
    · simp [Env.levels, Env.afterDios, bytesEvents, hd]
    · exact hs
    · rfl
    · rfl
    · rfl

/-- A frame by hand from idle lines does on the wire what the phases of the frame do (R59, R76); the response and the samples are those of
its STOP, which takes none. -/
theorem execAll_handFrame (vs : List Byte) (hs : s.sess = .idle) (hb : s.bus = .idle) (hscan : s.rx.scan = .idle)
    (hc : s.clkDrv = .h) (hd : s.dioDrv = .h) :
    execAll (handFrame vs) s = .next
      (((s.wired .h .h .idle (s.env.levels vs.length) (s.env.afterDios vs.length) (frameEvents vs (s.env.levels vs.length))
        (s.rx.gets [vs])).begin).respond .ok true) := by
  have hr : ((s.rx.scanAt (.inFrame [] [])).gets [[] ++ vs]).scanAt .idle = s.rx.gets [vs] := by
    rw [scanAt_gets, List.nil_append, scanAt_self (s.rx.gets [vs]) .idle hscan]
  rw [handFrame, execAll_cons (exec_start_of_idle hs hb hscan hc hd), execAll_writeBytes_stop vs (bytes := []),
    wired_respond_wired, respond_rx, wired_rx, hr]
  · rfl
  · exact hs
  · rfl
  · rfl
  · rfl

end

/-! ### What a receiver reads off the events of a frame (R59) -/

section
variable (bytes : List Byte) (c d : Drive) (ps : List (Drive × Drive))

/-- A bit cell (R106) shifts in one bit. -/
theorem extractFrom_bitCell (x : Bool) {bits : List Bool} (hb : bits.length < 8) :
    extractFrom (.inFrame bits bytes) c d ((.l, d) :: (.l, bitDrive x) :: (.h, bitDrive x) :: ps) =
      extractFrom (.inFrame (bits ++ [x]) bytes) .h (bitDrive x) ps := by
  cases x <;> simp [extractFrom, scanStep, isStart, isStop, isRise, clockHigh, clockIn, hb, bitDrive]

/-- The ACK cell (R107) completes the byte. -/
theorem extractFrom_ackCell {bits : List Bool} (hb : bits.length = 8) :
    extractFrom (.inFrame bits bytes) c d ((.l, d) :: (.l, .z) :: (.h, .z) :: (.l, .z) :: (.l, .l) :: ps) =
      extractFrom (.inFrame [] (bytes ++ [byteOfBits bits])) .l .l ps := by
  simp [extractFrom, scanStep, isStart, isStop, isRise, clockHigh, clockIn, hb]

/-- The events of WRITEBYTE(v) read as the byte `v`, whatever the sample was. -/
theorem extractFrom_writeByteEvents (v : Byte) (x : Level) :
    extractFrom (.inFrame [] bytes) c d (pairsOf (writeByteEvents d v x) ++ ps) =
      extractFrom (.inFrame [] (bytes ++ [v])) .l .l ps := by
  simp only [writeByteEvents, pairsOf, List.cons_append, List.nil_append]
  iterate 8 rw [extractFrom_bitCell _ _ _ _ _ (by simp)]
  rw [extractFrom_ackCell _ _ _ _ (by simp)]
  simp only [List.nil_append, List.cons_append, byteOfBits_bits]

/-- The byte cells of a frame read as its bytes. -/
theorem extractFrom_bytesEvents {vs : List Byte} {xs : List Level} (h : vs.length = xs.length) :
    extractFrom (.inFrame [] bytes) c .l (pairsOf (bytesEvents vs xs) ++ ps) =
      extractFrom (.inFrame [] (bytes ++ vs)) (if vs = [] then c else .l) .l ps := by
  induction vs generalizing xs bytes c with
  | nil => simp [bytesEvents, pairsOf]
  | cons v vs ih =>
    cases xs with
    | nil => cases h
    | cons x xs =>
      rw [bytesEvents, pairsOf_append, List.append_assoc, extractFrom_writeByteEvents, ih _ _ (Nat.succ.inj h)]
      simp

/-- STOP's events (R110) close the frame, and the bit its clock rise shifts in is dropped. -/
theorem extractFrom_stopEvents :
    extractFrom (.inFrame [] bytes) c .l [(.l, .l), (.l, .l), (.h, .l), (.h, .h)] = (.idle, [bytes]) := by
  simp [extractFrom, scanStep, isStart, isStop, isRise, clockHigh, clockIn]

/-- The events of a frame from idle lines read as that one frame, whatever the samples were. -/
theorem extractFrom_frameEvents {vs : List Byte} {xs : List Level} (h : vs.length = xs.length) :
    extractFrom .idle .h .h (pairsOf (frameEvents vs xs)) = (.idle, [vs]) := by
  rw [frameEvents, pairsOf_append, pairsOf_append]
  calc extractFrom .idle .h .h ((.h, .l) :: (pairsOf (bytesEvents vs xs) ++ [(.l, .l), (.l, .l), (.h, .l), (.h, .h)]))
    _ = extractFrom (.inFrame [] []) .h .l (pairsOf (bytesEvents vs xs) ++ [(.l, .l), (.l, .l), (.h, .l), (.h, .h)]) := by
      simp [extractFrom, scanStep, isStart, clockHigh]
    _ = (.idle, [vs]) := by rw [extractFrom_bytesEvents _ _ _ h, extractFrom_stopEvents, List.nil_append]

end

/-- Settles O31: a frame by hand emits the events of the frame, and those read as that frame. -/
theorem handFrameRoundTrip : Obligations.HandFrameRoundTrip := by
  intro s vs h hs hb
  obtain ⟨hc, hd, hscan⟩ := h.idleHigh hs hb
  have hlen : vs.length = (s.env.levels vs.length).length := (length_levels _ _).symm
  refine ⟨_, _, execAll_handFrame vs hs hb hscan hc hd, rfl, ?_, rfl, hs, rfl, rfl, rfl, samplesOf_frameEvents hlen, rfl, rfl⟩
  rw [hc, hd]
  exact extractFrom_frameEvents hlen

/-! ### What the receiver has taken stays until it executes a frame -/

/-- The receiver has heard at most frames that now wait behind those that waited before: all it has taken is the same. -/
structure SameDisplay (r r' : Receiver) : Prop where
  mem : r'.mem = r.mem
  mode : r'.mode = r.mode
  on : r'.on = r.on
  bright : r'.bright = r.bright
  args : r'.args = r.args
  inbox : ∃ fs, r'.inbox = r.inbox ++ fs

theorem sameDisplay_gets (r : Receiver) (fs : List (List Byte)) (x : Scan) : SameDisplay r ((r.gets fs).scanAt x) :=
  ⟨rfl, rfl, rfl, rfl, rfl, fs, rfl⟩

theorem sameDisplay_scanAt (r : Receiver) (x : Scan) : SameDisplay r (r.scanAt x) :=
  ⟨rfl, rfl, rfl, rfl, rfl, [], (List.append_nil _).symm⟩

/-- The lines where a session operation or START is legal (R31 (b)). -/
theorem State.Boundary.idleLines {s : State} (h : s.Boundary) (hr : s.ready = true) :
    s.bus = .idle ∧ s.clkDrv = .h ∧ s.dioDrv = .h ∧ s.rx.scan = .idle := by
  obtain ⟨hs, hb⟩ := (ready_iff s).1 hr
  exact ⟨hb, h.idleHigh hs hb⟩

/-- The receiver's place where WRITEBYTE or STOP is legal (R31 (c)). -/
theorem State.Boundary.atByteCell {s : State} (h : s.Boundary) (hm : s.midFrame = true) :
    s.dioDrv = .l ∧ ∃ bytes, s.rx.scan = .inFrame [] bytes :=
  (h.openFrame ((midFrame_iff s).1 hm).2).2.atByteCell

/-- Whatever an accepted command comes to from a boundary state, the receiver never loses its place and only gets frames. -/
theorem Planned.perform_sameDisplay {s : State} {i : Instr} {p : Plan} (hp : Planned s i p) (h : s.Boundary) :
    SameDisplay s.rx p.perform.rx := by
  cases hp with
  | refused | notGranted => exact sameDisplay_scanAt s.rx s.rx.scan
  | construct hs =>
    obtain ⟨hc, hd, -, hscan⟩ := h.released (by simp [hs])
    rw [Plan.perform, runPhases_construct s.tookAcq.begin hc hd hscan]
    exact sameDisplay_scanAt s.rx _
  | release hr =>
    obtain ⟨-, hc, hd, hscan⟩ := h.idleLines hr
    rw [Plan.perform, runPhases_release s.begin hc hd hscan]
    exact sameDisplay_scanAt s.rx _
  | start hr =>
    obtain ⟨-, hc, hd, hscan⟩ := h.idleLines hr
    rw [Plan.perform, runPhases_start s.begin 0 hscan hc hd]
    exact sameDisplay_scanAt s.rx _
  | stop hm =>
    obtain ⟨hd, bytes, hscan⟩ := h.atByteCell hm
    rw [Plan.perform, runPhases_stop s.begin 0 0 [] bytes hscan (by simp) hd]
    exact sameDisplay_gets s.rx [bytes] _
  | writeByte v hm =>
    obtain ⟨-, bytes, hscan⟩ := h.atByteCell hm
    rw [Plan.perform, runPhases_write s.begin 0 0 v bytes hscan]
    exact sameDisplay_scanAt s.rx _
  | control _ ctl hr =>
    obtain ⟨hb, hc, hd, hscan⟩ := h.idleLines hr
    rw [perform_controlPlan { s with ctl := ctl } hscan hc hd hb]
    exact sameDisplay_gets s.rx _ s.rx.scan
  | display _ q hr =>
    obtain ⟨hb, hc, hd, hscan⟩ := h.idleLines hr
    rw [perform_displayPlan (s.setBuf q) hscan hc hd hb]
    exact sameDisplay_gets s.rx _ s.rx.scan

/-- Settles O49: a command performs its plan, and from a boundary state that only brings frames to the inbox. -/
theorem engineLeavesDisplayAlone : Obligations.EngineLeavesDisplayAlone := by
  intro s t i hs hi h
  obtain ⟨p, hp, he⟩ := exec_of_command s hi
  rw [he] at h
  cases h
  obtain ⟨hmem, hmode, hon, hbright, hargs, hinbox⟩ := (planned_of_planOf hp).perform_sameDisplay hs
  exact ⟨fun a => by rw [hmem], hmode, hon, hbright, hargs, hinbox⟩

/-! ### Control operations and display writes from idle -/

section
variable {s : State} {i : Instr}

/-- Where it is legal, a control operation's plan is the one that sends the value it writes (R174 to R177). -/
theorem planOf_of_controlValue (hr : s.ready = true) {ctl : BitVec 4} (hi : controlValue s.ctl i = some ctl) :
    planOf i s = some (controlPlan { s with ctl := ctl }) := by
  cases i with
  | brightness level =>
    cases hi
    simp only [planOf, planBrightness, hr, perform_require_true, Config.brightPolicy, brightOperand, setBright_clampLevel]
  | on | off =>
    cases hi
    simp only [planOf, planOn, planOff, hr, perform_require_true, setOn_eq, if_true, Bool.false_eq_true, if_false]
  | _ => cases hi

/-- Where it is legal, a display write's plan is the one that sends the buffer it writes (R178 to R182). -/
theorem planOf_of_displayBuffer (hr : s.ready = true) {q : Quad} (hi : displayBuffer i = some q) :
    planOf i s = some (displayPlan (s.setBuf q)) := by
  cases i with
  | showText | numbers | clear | raw =>
    cases hi
    simp only [planOf, planShow, planNumbers, planClear, planRaw, hr, perform_require_true]
  | _ => cases hi

variable (h : s.Boundary) (hs : s.sess = .idle) (hb : s.bus = .idle)
include h hs hb

theorem exec_of_controlValue {ctl : BitVec 4} (hi : controlValue s.ctl i = some ctl) :
    exec i s = .next (({ s with ctl := ctl } : State).sentFrames [[0x80#8 ||| ctl.setWidth 8]]) := by
  obtain ⟨hc, hd, hscan⟩ := h.idleHigh hs hb
  rw [exec_of_planOf (planOf_of_controlValue ((ready_iff s).2 ⟨hs, hb⟩) hi),
    perform_controlPlan { s with ctl := ctl } hscan hc hd hb]

theorem exec_of_displayBuffer {q : Quad} (hi : displayBuffer i = some q) :
    exec i s = .next (({ s with buf := q } : State).sentFrames (displayFrames q s.ctl)) := by
  obtain ⟨hc, hd, hscan⟩ := h.idleHigh hs hb
  rw [exec_of_planOf (planOf_of_displayBuffer ((ready_iff s).2 ⟨hs, hb⟩) hi), perform_displayPlan (s.setBuf q) hscan hc hd hb]
  rfl

end

/-! ### The receiver executes the frames that wait, one a step -/

theorem run_succ {s t : State} (h : step s = .next t) (n : Nat) : core.run (n + 1) s = core.run n t := by
  have hc : core.step s = .next t := h
  simp only [Host.Core.run, hc]

theorem frames_cons (rx : Receiver) (f : List Byte) (fs : List (List Byte)) :
    rx.frames (f :: fs) = (rx.frame f).frames fs := rfl

/-- As many steps as frames wait execute them all, in order, and nothing else but `rsp_valid` changes (R58). -/
theorem run_frames (fs : List (List Byte)) (s : State) (h : s.rx.inbox = fs) :
    ∃ v, core.run fs.length s =
      .next { s with rx := ({ s.rx with inbox := [] } : Receiver).frames fs, rspValid := v } := by
  induction fs generalizing s with
  | nil =>
    have hrx : s.rx = { s.rx with inbox := [] } := by rw [← h]
    refine ⟨s.rspValid, ?_⟩
    show Host.Outcome.next s = .next { s with rx := { s.rx with inbox := [] } }
    rw [← hrx]
  | cons f fs ih =>
    obtain ⟨v, hv⟩ := ih { s with rx := { s.rx.frame f with inbox := fs }, rspValid := false } rfl
    refine ⟨v, ?_⟩
    rw [List.length_cons, run_succ (step_frame h), frame_behind s.rx f fs, hv, frames_cons, frame_behind s.rx f []]

/-- A command that sends frames to an empty inbox, and as many steps more: the receiver has executed the frames, and everything else but
`rsp_valid` is as the operation left it. -/
theorem run_command_frames {s t : State} {frs : List (List Byte)} (h : step s = .next (t.sentFrames frs))
    (hi : t.rx.inbox = []) :
    ∃ v, core.run (frs.length + 1) s = .next { t.sentFrames frs with rx := t.rx.frames frs, rspValid := v } := by
  have hin : t.rx.inbox ++ frs = frs := by rw [hi, List.nil_append]
  have hrx : { t.rx with inbox := [] } = t.rx := by rw [← hi]
  obtain ⟨v, hv⟩ := run_frames frs (t.sentFrames frs) hin
  refine ⟨v, ?_⟩
  rw [run_succ h, hv]
  exact congrArg (fun rx => Host.Outcome.next { t.sentFrames frs with rx := rx.frames frs, rspValid := v }) hrx

/-! ### A command comes to show -/

section
variable {s : State} {w : CommandWord} {evs : List HostEvent} (h : s.Boundary) (hs : s.sess = .idle) (hb : s.bus = .idle)
  (hq : s.seq = .rest) (hi : s.rx.inbox = []) (hh : s.host = .command w :: evs)
include h hs hb hq hi hh

theorem step_of_controlValue {ctl : BitVec 4} (hw : controlValue s.ctl (decodeCommand w) = some ctl) :
    step s = .next (({ s.accept evs with ctl := ctl } : State).sentFrames [[0x80#8 ||| ctl.setWidth 8]]) :=
  (step_command hi hq hh).trans
    (exec_of_controlValue ((sameWire_outside s rfl false evs).boundary h) hs hb hw)

theorem step_of_displayBuffer {q : Quad} (hw : displayBuffer (decodeCommand w) = some q) :
    step s = .next (({ s.accept evs with buf := q } : State).sentFrames (displayFrames q s.ctl)) :=
  (step_command hi hq hh).trans
    (exec_of_displayBuffer ((sameWire_outside s rfl false evs).boundary h) hs hb hw)

end

/-- Settles O56: the operation brings the three frames of the display write to an empty inbox, and the receiver executes them. -/
theorem displayWriteReachesDisplay : Obligations.DisplayWriteReachesDisplay := by
  intro s w evs q h hs hb hq hi hh hw
  obtain ⟨v, hv⟩ := run_command_frames (step_of_displayBuffer h hs hb hq hi hh hw) hi
  rw [frames_displayFrames] at hv
  refine ⟨_, hv, rfl, rfl, rfl, hi, rfl, ?_, ?_, ?_, ?_, fun a ha => ?_, rfl, rfl⟩
  iterate 4 exact (read_writeFrom s.rx.mem 0 q.toList _).trans (dif_pos (by simp [Quad.toList]))
  exact (read_writeFrom s.rx.mem 0 q.toList a).trans (dif_neg (by simp only [Quad.toList, List.length]; omega))

/-- Settles O57: the operation brings its one frame to an empty inbox, and the receiver executes it. -/
theorem controlReachesDisplay : Obligations.ControlReachesDisplay := by
  intro s w evs ctl h hs hb hq hi hh hw
  obtain ⟨v, hv⟩ := run_command_frames (step_of_controlValue h hs hb hq hi hh hw) hi
  rw [Receiver.frames, List.foldl, frame_ctrl] at hv
  exact ⟨_, hv, rfl, rfl, rfl, hi, rfl, rfl, rfl, rfl⟩

end Sys2Proof.Machine
end

section
/-! PROOF. Encoding and decoding are inverse (R72 to R74, R80 to R82), whatever the fields an operation does not use hold, and a line of
assembly is the word of its row (R85). -/

namespace Sys2Proof.Machine

/-! ### The wire command bytes -/

/-- The byte of an address command that is encodable decodes to it (R73). -/
theorem decodeWire_encode_addrCmd {address : BitVec 3} (h : address.toNat ≤ Config.addrMax) :
    decodeWire (0b11000#5 ++ address) = .ok (.addrCmd address) := by
  revert address; decide

/-- The byte of a control command decodes to it (R74). -/
theorem decodeWire_encode_ctrlCmd (on : Bool) (brightness : BitVec 3) :
    decodeWire (0b1000#4 ++ (BitVec.ofBool on ++ brightness)) = .ok (.ctrlCmd on brightness) := by
  revert on brightness; decide

/-- A byte of class `11` whose bits 5:3 are zero is the byte of its low three bits' address command (R73). -/
theorem addr_byte_eq {v : Byte} (hclass : (v.extractLsb' 6 2).toNat = 3) (hzero : v.extractLsb' 3 3 = 0#3) :
    0b11000#5 ++ v.extractLsb' 0 3 = v := by
  revert v; decide

/-- A byte of class `10` whose bits 5:4 are zero is the byte of its low four bits' control command (R74). -/
theorem ctrl_byte_eq {v : Byte} (hclass : (v.extractLsb' 6 2).toNat = 2) (hzero : v.extractLsb' 4 2 = 0#2) :
    0b1000#4 ++ (BitVec.ofBool (v.getLsbD 3) ++ v.extractLsb' 0 3) = v := by
  revert v; decide

/-! ### Both formats (R72 to R74, R80 to R82) -/

/-- Settles O3: every field of the word reads back, and `op` selects the row. -/
theorem unusedOperandsIgnored : Obligations.UnusedOperandsIgnored := by
  intro colon arg len a b data
  and_intros <;> simp [decodeCommand]

/-- Settles O1: a command word's fields read back as the operands of its row, and a wire byte's bits as those of its command. -/
theorem decodeEncode : Obligations.DecodeEncode := by
  intro i hwf
  cases i with
  | addrCmd address => exact decodeWire_encode_addrCmd (of_decide_eq_true hwf)
  | ctrlCmd on brightness => exact decodeWire_encode_ctrlCmd on brightness
  | dataCmdAuto | dataCmdFixed => rfl
  | construct | release | brightness | on | off | showText | numbers | clear | raw | start | stop | writeByte
  | reservedOp0 | reservedOpD | reservedOpE | reservedOpF => simp [encode, decode, opWord, decodeCommand]

/-- Settles O2: in each branch of the decoder that accepts, the bits it has looked at make up the whole byte. -/
theorem encodeDecodeWire : Obligations.EncodeDecodeWire := by
  intro v i h
  have hwire := isWire_of_decodeWire h
  unfold decodeWire at h
  split at h
  next =>
    split at h
    next hv => cases h; cases hv; exact ⟨rfl, rfl, hwire⟩
    next =>
      split at h
      next hv => cases h; cases hv; exact ⟨rfl, rfl, hwire⟩
      next => cases h
  next hclass =>
    split at h
    next hzero =>
      split at h
      next ha => cases h; exact ⟨congrArg Code.wire (addr_byte_eq hclass hzero), decide_eq_true ha, hwire⟩
      next => cases h
    next => cases h
  next hclass =>
    split at h
    next hzero => cases h; exact ⟨congrArg Code.wire (ctrl_byte_eq hclass hzero), rfl, hwire⟩
    next => cases h
  next => cases h

/-- Settles O4: the two formats' decoders, run on the twelve words. -/
theorem writtenWordsDecode : Obligations.WrittenWordsDecode := by
  and_intros <;> decide

/-! ### The assembler notation (R85) -/

/-- The word of an instruction decodes to it. -/
theorem decodeCommand_of_encode {i : Instr} {w : CommandWord} (h : encode i = .command w) : decodeCommand w = i := by
  have hwf : i.wf = true := by
    cases i with
    | addrCmd => cases h
    | _ => rfl
  have hdec := decodeEncode i hwf
  rw [h] at hdec
  exact Except.ok.inj hdec

/-- Within the text and the field, element `i` of the `data` field is the code of character `i`. -/
theorem toList_textQuad (text : List Byte) {i : Nat} (hi : i < 4) (hlen : i < text.length) :
    (textQuad text).toList[i]? = text[i]? := by
  have hget : text[i]? = some (text.getD i 0#8) := by simp [hlen]
  rw [hget]
  interval_cases i <;> rfl

/-- Settles O5: each call's word is written out by `encode`, its fields read back, and it decodes to its instruction. -/
theorem assembledCallsDecode : Obligations.AssembledCallsDecode := by
  intro c
  cases c with
  | construct | release | on | off | clear | start | stop =>
    exact ⟨_, rfl, decodeCommand_of_encode rfl, commandWord_op ..⟩
  | brightness | writeByte =>
    exact ⟨_, rfl, decodeCommand_of_encode rfl, commandWord_op .., commandWord_arg ..⟩
  | numbers a b colon =>
    refine ⟨_, rfl, decodeCommand_of_encode rfl, commandWord_op .., commandWord_a .., commandWord_b .., ?_⟩
    rw [commandWord_colon]
    cases colon <;> simp
  | raw => exact ⟨_, rfl, decodeCommand_of_encode rfl, commandWord_op .., commandWord_data ..⟩
  | showText text =>
    have hlen : (BitVec.ofNat 8 (min text.length 255)).toNat = min text.length 255 := by
      rw [BitVec.toNat_ofNat]; omega
    refine ⟨_, rfl, decodeCommand_of_encode rfl, commandWord_op .., ?_, fun i hi => ?_⟩
    · rw [commandWord_len, hlen]
    · rw [commandWord_len, hlen] at hi
      rw [commandWord_data, toList_textQuad text (by omega) (by omega)]

end Sys2Proof.Machine
end

section
/-! PROOF. The frames that the engine's operations bring to the receiver are of the kinds the command encoder makes (R77, R83). -/

namespace Sys2Proof.Machine

/-- Everything an accepted command other than STOP can add to the inbox from a boundary state: nothing, the frame of a control operation,
or the three of a display write (R77). -/
theorem Planned.perform_inbox {s : State} {i : Instr} {p : Plan} (hp : Planned s i p) (h : s.Boundary) (hi : i ≠ .stop) :
    p.perform.rx.inbox = s.rx.inbox ∨
      (∃ ctl : BitVec 4, p.perform.rx.inbox = s.rx.inbox ++ [[0x80#8 ||| ctl.setWidth 8]]) ∨
      (∃ q ctl, p.perform.rx.inbox = s.rx.inbox ++ displayFrames q ctl) := by
  cases hp with
  | refused | notGranted => exact .inl rfl
  | construct hs =>
    obtain ⟨hc, hd, -, hscan⟩ := h.released (by simp [hs])
    rw [Plan.perform, runPhases_construct s.tookAcq.begin hc hd hscan]
    exact .inl rfl
  | release hr =>
    obtain ⟨-, hc, hd, hscan⟩ := h.idleLines hr
    rw [Plan.perform, runPhases_release s.begin hc hd hscan]
    exact .inl rfl
  | start hr =>
    obtain ⟨-, hc, hd, hscan⟩ := h.idleLines hr
    rw [Plan.perform, runPhases_start s.begin 0 hscan hc hd]
    exact .inl rfl
  | stop => exact absurd rfl hi
  | writeByte v hm =>
    obtain ⟨-, bytes, hscan⟩ := h.atByteCell hm
    rw [Plan.perform, runPhases_write s.begin 0 0 v bytes hscan]
    exact .inl rfl
  | control _ ctl hr =>
    obtain ⟨hb, hc, hd, hscan⟩ := h.idleLines hr
    rw [perform_controlPlan { s with ctl := ctl } hscan hc hd hb]
    exact .inr (.inl ⟨ctl, rfl⟩)
  | display _ q hr =>
    obtain ⟨hb, hc, hd, hscan⟩ := h.idleLines hr
    rw [perform_displayPlan (s.setBuf q) hscan hc hd hb]
    exact .inr (.inr ⟨q, s.ctl, rfl⟩)

/-- Settles O50: a command other than STOP adds nothing, a control frame, or the three frames of a display write. -/
theorem sessionFramesOnly : Obligations.SessionFramesOnly := by
  intro s t i hs hi hstop h
  obtain ⟨p, hp, he⟩ := exec_of_command s hi
  rw [he] at h
  cases h
  obtain hin | ⟨ctl, hin⟩ | ⟨q, ctl, hin⟩ := (planned_of_planOf hp).perform_inbox hs hstop
  · exact ⟨[], by rw [hin, List.append_nil], fun f hf => absurd hf List.not_mem_nil⟩
  · refine ⟨_, hin, fun f hf => ?_⟩
    rw [List.mem_singleton] at hf
    exact .inr (.inr ⟨ctl, hf⟩)
  · refine ⟨_, hin, fun f hf => ?_⟩
    simp only [displayFrames, List.mem_cons, List.not_mem_nil, or_false] at hf
    exact hf.imp_right (.imp (⟨q, ·⟩) (⟨ctl, ·⟩))

end Sys2Proof.Machine
end

section
/-! PROOF. The Bit-Bang Transport's three operations (R105, R107, R110), the line discipline of a frame by hand (R111, R114), and that what the
ACK samples read never changes what is sent (R109). -/

namespace Sys2Proof.Machine

/-! ### START, WRITEBYTE and STOP -/

/-- Where its `require` line is false an operation is refused, and only the response changes (R204). -/
theorem perform_require_of_not {legal : Bool} (h : ¬ legal = true) (s : State) (p : Plan) :
    (Plan.require legal s p).perform = s.answered .illegalState := by
  rw [Bool.eq_false_of_not_eq_true h, perform_require_false]
  rfl

section
variable {s : State}

theorem exec_start_of_not_ready (h : ¬ (s.sess = .idle ∧ s.bus = .idle)) :
    exec .start s = .next (s.answered .illegalState) := by
  rw [exec_of_planOf (p := planStart s) rfl, planStart, perform_require_of_not (mt (ready_iff s).1 h)]

theorem exec_writeByte_of_not_midFrame (v : Byte) (h : ¬ (s.sess = .idle ∧ s.bus = .frame)) :
    exec (.writeByte v) s = .next (s.answered .illegalState) := by
  rw [exec_of_planOf (p := planWriteByte v s) rfl, planWriteByte, perform_require_of_not (mt (midFrame_iff s).1 h)]

theorem exec_stop_of_not_midFrame (h : ¬ (s.sess = .idle ∧ s.bus = .frame)) :
    exec .stop s = .next (s.answered .illegalState) := by
  rw [exec_of_planOf (p := planStop s) rfl, planStop, perform_require_of_not (mt (midFrame_iff s).1 h)]

end

/-- Settles O27: START's phase from the idle lines of a boundary state, and its `require` line. -/
theorem startOpensFrame : Obligations.StartOpensFrame := by
  refine ⟨fun w hop => by rw [decodeCommand, hop]; rfl, fun s h hs hb => ?_, fun s h => exec_start_of_not_ready h⟩
  obtain ⟨hc, hd, hscan⟩ := h.idleHigh hs hb
  rw [exec_start_of_idle hs hb hscan hc hd]
  simp [State.wired, State.begin, State.respond, State.answered, Receiver.scanAt, hc]

/-- Settles O28: WRITEBYTE's phases in the open frame of a boundary state, where DATA is low, and its `require` line. -/
theorem writeByteSends : Obligations.WriteByteSends := by
  refine ⟨fun w hop => by rw [decodeCommand, hop]; rfl, fun s v bytes h hb hscan => ?_, fun v x => ⟨rfl, rfl⟩,
    fun s v h => exec_writeByte_of_not_midFrame v h⟩
  obtain ⟨hs, hopen⟩ := h.openFrame hb
  obtain ⟨hd, -⟩ := hopen.atByteCell
  rw [exec_writeByte_of_open hs hb v hscan, hd]
  cases hx : s.env.dioIn <;>
    simp [State.wired, State.begin, State.respond, Receiver.scanAt, hb, ackAfter, allAcked, ackOf, ackStatus]

/-- Settles O29: STOP's phases in the open frame of a boundary state, and its `require` line. -/
theorem stopClosesFrame : Obligations.StopClosesFrame := by
  refine ⟨fun w hop => by rw [decodeCommand, hop]; rfl, fun s bytes h hb hscan => ?_,
    fun s h => exec_stop_of_not_midFrame h⟩
  obtain ⟨hs, hopen⟩ := h.openFrame hb
  obtain ⟨hd, -⟩ := hopen.atByteCell
  rw [exec_stop_of_open hs hb hd hscan]
  simp [State.wired, State.begin, State.respond, State.answered, Receiver.gets, Receiver.scanAt]

/-! ### Counting the line steps of a frame

Every clause of R111 and R114 counts line steps of some kind, so the events of a frame are walked once, for any kind. -/

/-- Every line step, as a kind: their number is the number of phases (R101). -/
def anyStep (_c _d _c' _d' : Drive) : Bool := true

/-- A step into a phase in which DATA is released. -/
def releasedStep (_c _d _c' d' : Drive) : Bool := decide (d' = .z)

/-- A step against the line discipline (R111). -/
def undisciplinedStep (c d c' d' : Drive) : Bool := !disciplinedStep c d c' d'

theorem countSteps_anyStep (c d : Drive) (ps : List (Drive × Drive)) : countSteps anyStep c d ps = ps.length := by
  induction ps generalizing c d with
  | nil => rfl
  | cons p ps ih => simp [countSteps, anyStep, ih, Nat.add_comm]

theorem countSteps_releasedStep (c d : Drive) (ps : List (Drive × Drive)) :
    countSteps releasedStep c d ps = (ps.filter (fun p => decide (p.2 = .z))).length := by
  induction ps generalizing c d with
  | nil => rfl
  | cons p ps ih =>
    by_cases hp : p.2 = .z
    · simp [countSteps, releasedStep, ih, hp, Nat.add_comm]
    · simp [countSteps, releasedStep, ih, hp]

theorem disciplined_iff_countSteps (c d : Drive) (ps : List (Drive × Drive)) :
    disciplined c d ps = true ↔ countSteps undisciplinedStep c d ps = 0 := by
  induction ps generalizing c d with
  | nil => exact iff_of_true rfl rfl
  | cons p ps ih => cases hp : disciplinedStep c d p.1 p.2 <;> simp [disciplined, countSteps, undisciplinedStep, ih, hp]

/-- How many steps of a kind each piece of a frame has, whichever driven levels CLOCK and DATA begin it with: the start condition, a bit
cell, the ACK cell, STOP. -/
structure PieceCounts (kind : Drive → Drive → Drive → Drive → Bool) (start bit ack stop : Nat) : Prop where
  start : countSteps kind .h .h [(.h, .l)] = start
  bit : ∀ c y x : Bool,
    countSteps kind (bitDrive c) (bitDrive y) [(.l, bitDrive y), (.l, bitDrive x), (.h, bitDrive x)] = bit
  ack : ∀ y : Bool, countSteps kind (bitDrive true) (bitDrive y) [(.l, bitDrive y), (.l, .z), (.h, .z), (.l, .z), (.l, .l)] = ack
  stop : ∀ c : Bool, countSteps kind (bitDrive c) .l [(.l, .l), (.l, .l), (.h, .l), (.h, .h)] = stop

section
variable {kind : Drive → Drive → Drive → Drive → Bool} {start bit ack stop : Nat} (hk : PieceCounts kind start bit ack stop)
include hk

theorem countSteps_bitCell (c y x : Bool) (ps : List (Drive × Drive)) :
    countSteps kind (bitDrive c) (bitDrive y) ((.l, bitDrive y) :: (.l, bitDrive x) :: (.h, bitDrive x) :: ps) =
      bit + countSteps kind (bitDrive true) (bitDrive x) ps := by
  rw [← hk.bit c y x]
  simp only [countSteps]
  change _ = _ + countSteps kind .h (bitDrive x) ps
  omega

theorem countSteps_ackCell (y : Bool) (ps : List (Drive × Drive)) :
    countSteps kind (bitDrive true) (bitDrive y) ((.l, bitDrive y) :: (.l, .z) :: (.h, .z) :: (.l, .z) :: (.l, .l) :: ps) =
      ack + countSteps kind .l .l ps := by
  rw [← hk.ack y]
  simp only [countSteps]
  omega

/-- A byte has eight bit cells and an ACK cell (R107). -/
theorem countSteps_writeByteEvents (c y : Bool) (v : Byte) (x : Level) (ps : List (Drive × Drive)) :
    countSteps kind (bitDrive c) (bitDrive y) (pairsOf (writeByteEvents (bitDrive y) v x) ++ ps) =
      8 * bit + ack + countSteps kind .l .l ps := by
  simp only [writeByteEvents, pairsOf, List.cons_append, List.nil_append]
  iterate 8 rw [countSteps_bitCell hk]
  rw [countSteps_ackCell hk]
  omega

/-- The byte cells of a frame and its STOP, from DATA low. -/
theorem countSteps_bytesEvents_stop (c : Bool) {vs : List Byte} {xs : List Level} (h : vs.length = xs.length) :
    countSteps kind (bitDrive c) .l (pairsOf (bytesEvents vs xs) ++ [(.l, .l), (.l, .l), (.h, .l), (.h, .h)]) =
      (8 * bit + ack) * vs.length + stop := by
  induction vs generalizing xs c with
  | nil => simpa [bytesEvents, pairsOf] using hk.stop c
  | cons v vs ih =>
    cases xs with
    | nil => cases h
    | cons x xs =>
      rw [bytesEvents, pairsOf_append, List.append_assoc]
      calc _ = 8 * bit + ack + countSteps kind .l .l (pairsOf (bytesEvents vs xs) ++ _) :=
            countSteps_writeByteEvents hk c false v x _
        _ = 8 * bit + ack + ((8 * bit + ack) * vs.length + stop) := congrArg _ (ih false (Nat.succ.inj h))
        _ = (8 * bit + ack) * (v :: vs).length + stop := by rw [List.length_cons, Nat.mul_succ]; omega

/-- The steps of a kind in a frame of `n` bytes from idle lines (R76). -/
theorem countSteps_frameEvents {vs : List Byte} {xs : List Level} (h : vs.length = xs.length) :
    countSteps kind .h .h (pairsOf (frameEvents vs xs)) = start + ((8 * bit + ack) * vs.length + stop) := by
  rw [frameEvents, pairsOf_append, pairsOf_append, ← countSteps_bytesEvents_stop hk true h, ← hk.start]
  rfl

end

/-! The kinds of R111 and R114, piece by piece. -/

theorem pieceCounts_isStart : PieceCounts isStart 1 0 0 0 := ⟨rfl, by decide, by decide, by decide⟩
theorem pieceCounts_isStop : PieceCounts isStop 0 0 0 1 := ⟨rfl, by decide, by decide, by decide⟩
theorem pieceCounts_riseStep : PieceCounts riseStep 0 1 1 1 := ⟨rfl, by decide, by decide, by decide⟩
theorem pieceCounts_anyStep : PieceCounts anyStep 1 3 5 4 := ⟨rfl, by decide, by decide, by decide⟩
theorem pieceCounts_releasedStep : PieceCounts releasedStep 0 0 3 0 := ⟨rfl, by decide, by decide, by decide⟩
theorem pieceCounts_undisciplinedStep : PieceCounts undisciplinedStep 0 0 0 0 := ⟨rfl, by decide, by decide, by decide⟩

/-- Settles O32: a frame by hand emits the events of the frame, and each clause counts steps of a kind in them. -/
theorem frameLineDiscipline : Obligations.FrameLineDiscipline := by
  intro s vs h hs hb
  obtain ⟨hc, hd, hscan⟩ := h.idleHigh hs hb
  have hlen : vs.length = (s.env.levels vs.length).length := (length_levels _ _).symm
  refine ⟨_, _, execAll_handFrame vs hs hb hscan hc hd, rfl, ?_⟩
  rw [hc, hd, samplesOf_frameEvents hlen, disciplined_iff_countSteps, ← countSteps_anyStep .h .h,
    ← countSteps_releasedStep .h .h, countSteps_frameEvents pieceCounts_undisciplinedStep hlen,
    countSteps_frameEvents pieceCounts_isStart hlen, countSteps_frameEvents pieceCounts_isStop hlen,
    countSteps_frameEvents pieceCounts_riseStep hlen, countSteps_frameEvents pieceCounts_anyStep hlen,
    countSteps_frameEvents pieceCounts_releasedStep hlen]
  refine ⟨?_, ?_, ?_, ?_, ?_, length_levels _ _, ?_⟩ <;> omega

/-! ### What is sent does not depend on what the samples read -/

/-- The two states agree but for what the ACK samples read: the levels, the flags, the answers to come, and the response's status and ACK
flag may differ. -/
structure SameSent (s t : State) : Prop where
  pairs : pairsOf t.trace = pairsOf s.trace
  rx : t.rx = s.rx
  ctl : t.ctl = s.ctl
  buf : t.buf = s.buf
  sess : t.sess = s.sess
  bus : t.bus = s.bus
  clkDrv : t.clkDrv = s.clkDrv
  dioDrv : t.dioDrv = s.dioDrv
  seq : t.seq = s.seq
  rspValid : t.rspValid = s.rspValid
  host : t.host = s.host

namespace SameSent
variable {s t : State}

theorem drive (h : SameSent s t) (c d : Option Drive) : SameSent (s.drive c d) (t.drive c d) :=
  { h with
    pairs := by simp [pairsOf_append, h.pairs, h.clkDrv, h.dioDrv]
    rx := by simp [h.rx, h.clkDrv, h.dioDrv]
    clkDrv := congrArg c.getD h.clkDrv
    dioDrv := congrArg d.getD h.dioDrv }

/-- A sample is no line pair, and what it read goes to the flags only (R104, R109). -/
theorem sampleDio (h : SameSent s t) : SameSent s.sampleDio t.sampleDio :=
  { h with pairs := by simp [pairsOf_append, pairsOf, h.pairs] }

theorem applyEffect (h : SameSent s t) (e : Effect) : SameSent (s.applyEffect e) (t.applyEffect e) := by
  cases e with
  | none | latchAck => exact { h with }
  | openFrame | closeFrame => exact { h with bus := rfl }

theorem runPhase (h : SameSent s t) (p : Phase) : SameSent (s.runPhase p) (t.runPhase p) := by
  unfold State.runPhase
  split
  · exact (h.drive _ _).sampleDio.applyEffect _
  · exact (h.drive _ _).applyEffect _

theorem runPhases (h : SameSent s t) (ps : List Phase) : SameSent (s.runPhases ps) (t.runPhases ps) := by
  induction ps generalizing s t with
  | nil => exact h
  | cons p ps ih => exact ih (h.runPhase p)

theorem respond (h : SameSent s t) (c c' : Status) (a a' : Bool) : SameSent (s.respond c a) (t.respond c' a') :=
  { h with seq := rfl, rspValid := rfl }

theorem finish (h : SameSent s t) (f : Finish) : SameSent (s.finish f) (t.finish f) := by
  cases f with
  | construct => exact { h with ctl := rfl, buf := rfl, sess := rfl, bus := rfl, seq := rfl, rspValid := rfl }
  | release => exact { h with sess := rfl, seq := rfl, rspValid := rfl }
  | ok | acks => exact h.respond _ _ _ _

end SameSent

/-- A state with another environment. -/
def State.withEnv (s : State) (e : Env) : State := { s with env := e }

theorem sameSent_withEnv (s : State) (e : Env) : SameSent s (s.withEnv e) :=
  ⟨rfl, rfl, rfl, rfl, rfl, rfl, rfl, rfl, rfl, rfl, rfl⟩

/-- A plan in another environment. -/
def Plan.withEnv (e : Env) : Plan → Plan
  | .reply s c => .reply (s.withEnv e) c
  | .run s ps f => .run (s.withEnv e) ps f

theorem require_withEnv (legal : Bool) (s : State) (p : Plan) (e : Env) :
    (Plan.require legal s p).withEnv e = Plan.require legal (s.withEnv e) (p.withEnv e) := by
  cases legal <;> rfl

/-- Only CONSTRUCT looks at the environment before its phases (R172). -/
theorem planOf_withEnv {i : Instr} (hi : i ≠ .construct) (s : State) (e : Env) :
    planOf i (s.withEnv e) = (planOf i s).map (Plan.withEnv e) := by
  cases i with
  | construct => exact absurd rfl hi
  | dataCmdAuto | dataCmdFixed | addrCmd | ctrlCmd | reservedOp0 | reservedOpD | reservedOpE | reservedOpF => rfl
  | release | brightness | on | off | showText | numbers | clear | raw | start | stop | writeByte =>
    simp only [planOf, planRelease, planBrightness, planOn, planOff, planShow, planNumbers, planClear, planRaw, planStart, planStop,
      planWriteByte, Option.map_some, require_withEnv]
    rfl

/-- The phases and the end of a plan send the same in every environment. -/
theorem perform_withEnv (p : Plan) (e : Env) : SameSent p.perform (p.withEnv e).perform := by
  cases p with
  | reply s c => exact (sameSent_withEnv s e).respond c c true true
  | run s ps f => exact ((sameSent_withEnv s.begin e).runPhases ps).finish f

/-- Settles O45: an instruction's plan is the same in both environments, and performing it sends the same; a wire command moves the receiver,
which does not see the environment. -/
theorem samplesNeverChangeTheWire : Obligations.SamplesNeverChangeTheWire := by
  intro s t t' e i hi h h'
  have hsame : SameSent t t' := by
    have hplan := planOf_withEnv hi s e
    cases hp : planOf i s with
    | some p =>
      rw [hp] at hplan
      cases (exec_of_planOf hp).symm.trans h
      cases (exec_of_planOf hplan).symm.trans h'
      exact perform_withEnv p e
    | none =>
      have hw := (planOf_eq_none_iff i s).1 hp
      cases i with
      | dataCmdAuto | dataCmdFixed | addrCmd | ctrlCmd =>
        cases h
        cases h'
        exact sameSent_withEnv _ e
      | _ => cases hw
  exact ⟨hsame.pairs.symm, hsame.rx.symm, hsame.ctl.symm, hsame.buf.symm, hsame.sess.symm, hsame.bus.symm, hsame.clkDrv.symm,
    hsame.dioDrv.symm, hsame.seq.symm, hsame.rspValid.symm, hsame.host.symm⟩

end Sys2Proof.Machine
end

section
/-! PROOF. The command bytes (R131 to R134): the encoders' ORs are the bit fields of R73 and R74, so the receiver's decoder, which reads
those fields, tells the commands and their operands apart. -/

namespace Sys2Proof.Machine

/-! ### The encoders as ORs into a base and as sums (R75, R131 to R133) -/

/-- A three-bit operand meets no set bit of a base whose low three bits are clear, so the OR is the sum. -/
theorem add_eq_or_of_low_clear {base : Byte} (h : base.setWidth 3 = 0#3) (b : BitVec 3) :
    base + b.setWidth 8 = base ||| b.setWidth 8 := by
  apply BitVec.add_eq_or_of_and_eq_zero
  ext i hi
  rcases Nat.lt_or_ge i 3 with hlow | hhigh
  · have hbase : base.getLsbD i = false := by simpa [hlow] using congrArg (·.getLsbD i) h
    simp [← BitVec.getLsbD_eq_getElem, hbase]
  · simp [BitVec.getLsbD_of_ge b i hhigh]

/-- A value of ENC_ADDR is `0xC0 | address` of an address up to 5 (R132). -/
theorem encAddr_eq_some_iff {a : BitVec 3} {v : Byte} :
    encAddr a = some v ↔ a.toNat ≤ Config.addrMax ∧ 0xC0#8 ||| a.setWidth 8 = v := by
  simp [encAddr, Config.addrCmdBase]

/-- ENC_ADDR refuses the addresses above 5 (R132). -/
theorem encAddr_eq_none_iff {a : BitVec 3} : encAddr a = none ↔ Config.addrMax < a.toNat := by
  simp [encAddr]

/-- The control byte for the packed pair (R133). -/
theorem encCtrl_eq_or_ctlOf (on : Bool) (b : BitVec 3) : encCtrl on b = 0x80#8 ||| (ctlOf on b).setWidth 8 := by
  revert on b; decide

/-- `ctl` is the pair of its two fields (R22). -/
theorem ctlOf_ctlOn_ctlBright (ctl : BitVec 4) : ctlOf (ctlOn ctl) (ctlBright ctl) = ctl := by
  revert ctl; decide

/-- Settles O6: the encoders' equations, with the sums of the printed table since the bases' low three bits are clear. -/
theorem commandBytes : Obligations.CommandBytes := by
  refine ⟨rfl, rfl, fun a ha => ⟨?_, ?_⟩, encAddr_eq_none_iff.2 (by decide), encAddr_eq_none_iff.2 (by decide), fun _ _ => rfl,
    fun b => ⟨?_, ?_⟩, fun ctl => ?_⟩
  · exact encAddr_eq_some_iff.2 ⟨ha, rfl⟩
  · exact encAddr_eq_some_iff.2 ⟨ha, (add_eq_or_of_low_clear (by decide) a).symm⟩
  · exact (add_eq_or_of_low_clear (by decide) b).symm
  · exact (add_eq_or_of_low_clear (by decide) b).symm
  · rw [encCtrl_eq_or_ctlOf, ctlOf_ctlOn_ctlBright]

/-! ### The command bytes tell the commands (R134) -/

/-- The OR into the address base is the bit layout of R73: the base's five high bits, then the address. -/
theorem addr_or_eq_append (a : BitVec 3) : 0xC0#8 ||| a.setWidth 8 = 0b11000#5 ++ a := by
  revert a; decide

/-- The OR into the control base is the bit layout of R74: the base's four high bits, `on`, then the brightness. -/
theorem encCtrl_eq_append (on : Bool) (b : BitVec 3) : encCtrl on b = 0b1000#4 ++ (BitVec.ofBool on ++ b) := by
  revert on b; decide

/-- The address byte decodes to its command (R73). -/
theorem decodeWire_encAddr {a : BitVec 3} {v : Byte} (h : encAddr a = some v) : decodeWire v = .ok (.addrCmd a) := by
  obtain ⟨ha, rfl⟩ := encAddr_eq_some_iff.1 h
  rw [addr_or_eq_append, decodeWire_encode_addrCmd ha]

/-- The control byte decodes to its command (R74). -/
theorem decodeWire_encCtrl (on : Bool) (b : BitVec 3) : decodeWire (encCtrl on b) = .ok (.ctrlCmd on b) := by
  rw [encCtrl_eq_append, decodeWire_encode_ctrlCmd]

theorem encData_class (m : AddrMode) : (encData m).extractLsb' 6 2 = 0b01#2 := by
  cases m <;> rfl

theorem encAddr_class {a : BitVec 3} {v : Byte} (h : encAddr a = some v) : v.extractLsb' 6 2 = 0b11#2 := by
  obtain ⟨-, rfl⟩ := encAddr_eq_some_iff.1 h
  rw [addr_or_eq_append, BitVec.extractLsb'_append_eq_of_le (by decide)]
  rfl

theorem encCtrl_class (on : Bool) (b : BitVec 3) : (encCtrl on b).extractLsb' 6 2 = 0b10#2 := by
  rw [encCtrl_eq_append, BitVec.extractLsb'_append_eq_of_le (by decide)]
  rfl

theorem encAddr_injective {a a' : BitVec 3} {v : Byte} (h : encAddr a = some v) (h' : encAddr a' = some v) : a = a' := by
  have heq := (decodeWire_encAddr h).symm.trans (decodeWire_encAddr h')
  injection heq with heq
  injection heq

theorem encCtrl_injective {on on' : Bool} {b b' : BitVec 3} (h : encCtrl on b = encCtrl on' b') : on = on' ∧ b = b' := by
  have heq := (decodeWire_encCtrl on b).symm.trans (h ▸ decodeWire_encCtrl on' b')
  injection heq with heq
  injection heq with hon hb
  exact ⟨hon, hb⟩

/-- A byte whose bits 7:6 are not both clear is above 0x3F (R134). -/
theorem above_3F_of_class_ne_zero {v : Byte} (h : v.extractLsb' 6 2 ≠ 0#2) : 0x3F#8 < v := by
  have hclass : (v.extractLsb' 6 2).toNat = v.toNat / 64 := by
    have := v.isLt
    simp [BitVec.extractLsb'_toNat, Nat.shiftRight_eq_div_pow]
    omega
  rw [Ne, ← BitVec.toNat_inj, hclass] at h
  rw [BitVec.lt_def]
  simp at h ⊢
  omega

/-- Settles O7: bits 7:6 of each encoder's bytes are its own class, and the decoder reads the operands back. -/
theorem commandBytesTellCommands : Obligations.CommandBytesTellCommands := by
  refine ⟨encData_class, fun _ _ => encAddr_class, encCtrl_class, fun _ _ _ => encAddr_injective,
    fun _ _ _ _ => encCtrl_injective, fun m on b a v h => above_3F_of_class_ne_zero ?_⟩
  rcases h with rfl | h | rfl
  · rw [encData_class]; decide
  · rw [encAddr_class h.symm]; decide
  · rw [encCtrl_class]; decide

end Sys2Proof.Machine
end

section
/-! PROOF. The segment encoder (R140 to R154): the two ROMs, decimal digits and number fields, the pair of numbers, and text. -/

namespace Sys2Proof.Machine

/-! ### The ROMs (R141, R143, R144) -/

/-- What ENC_CHAR can answer: blank, or the pattern of a row of R144's table that lists the code. -/
theorem romChar_cases (c : Byte) : romChar c = Config.segBlank ∨ ∃ row ∈ charRows, c ∈ row.1 ∧ romChar c = row.2 := by
  cases h : charRows.find? (fun row => row.1.contains c) with
  | none => exact .inl (by simp only [romChar, h])
  | some row =>
    have hc : row.1.contains c = true := by simpa using List.find?_some h
    exact .inr ⟨row, List.mem_of_find?_eq_some h, List.contains_iff_mem.1 hc, by simp only [romChar, h]⟩

/-- Bit 7, the separator's, is clear in every pattern of the character ROM (R143). -/
theorem romChar_bit7 (c : Byte) : (romChar c).getLsbD 7 = false := by
  have hrows : ∀ row ∈ charRows, row.2.getLsbD 7 = false := by decide
  obtain h | ⟨row, hrow, -, h⟩ := romChar_cases c
  · rw [h]; rfl
  · rw [h]; exact hrows row hrow

/-- A code with a pattern that is not blank is a '-', a digit or a letter of the table in either case (R144). -/
theorem code_of_romChar_ne_blank {c : Byte} (hc : romChar c ≠ 0x00#8) :
    c = 0x2D#8 ∨ (0x30#8 ≤ c ∧ c ≤ 0x39#8) ∨ c ∈ letterRows.map (·.1) ∨ c - 0x20#8 ∈ letterRows.map (·.1) := by
  have hrows : ∀ row ∈ charRows, row.2 ≠ 0x00#8 → ∀ c ∈ row.1,
      c = 0x2D#8 ∨ (0x30#8 ≤ c ∧ c ≤ 0x39#8) ∨ c ∈ letterRows.map (·.1) ∨ c - 0x20#8 ∈ letterRows.map (·.1) := by decide
  obtain h | ⟨row, hrow, hmem, h⟩ := romChar_cases c
  · exact absurd h hc
  · exact hrows row hrow (h ▸ hc) c hmem

/-- Each letter of the table has its pattern in either case (R144). -/
theorem romChar_letter : ∀ row ∈ letterRows, romChar row.1 = row.2 ∧ romChar (row.1 + 0x20#8) = row.2 := by
  have hall : letterRows.all (fun row => decide (romChar row.1 = row.2 ∧ romChar (row.1 + 0x20#8) = row.2)) = true := by decide
  exact fun row hrow => of_decide_eq_true (List.all_eq_true.1 hall row hrow)

/-- Settles O8: the codes of the tables are looked up one by one, and every other code is in no row. -/
theorem romContents : Obligations.RomContents :=
  ⟨by decide, by decide, romChar_bit7, by decide, by decide, by decide, by decide, romChar_letter,
    fun _ => code_of_romChar_ne_blank⟩

/-! ### Decimal digits (R145) -/

/-- The bound on the recursion does not matter once it reaches the number. -/
theorem digitsFuel_eq_digits10 {fuel n : Nat} (h : n ≤ fuel) : digitsFuel fuel n = digits10 n := by
  induction n using Nat.strong_induction_on generalizing fuel with
  | _ n ih =>
    obtain _ | n := n
    · cases fuel <;> rfl
    · obtain _ | fuel := fuel
      · omega
      · have hdiv : (n + 1) / 10 ≤ n := by omega
        simp only [digits10, digitsFuel]
        rw [ih _ (by omega) (by omega : (n + 1) / 10 ≤ fuel), ih _ (by omega) hdiv]

theorem digits10_of_lt {n : Nat} (h : n < 10) : digits10 n = [Fin.ofNat 10 n] := by
  cases n with
  | zero => rfl
  | succ n => rw [digits10, digitsFuel, if_pos h]

theorem digits10_of_ge {n : Nat} (h : 10 ≤ n) : digits10 n = digits10 (n / 10) ++ [Fin.ofNat 10 n] := by
  obtain ⟨m, rfl⟩ : ∃ m, n = m + 1 := ⟨n - 1, by omega⟩
  rw [digits10, digitsFuel, if_neg (by omega), digitsFuel_eq_digits10 (by omega)]

/-- Induction along the recursion of R145. -/
theorem digits10_induction {P : Nat → Prop} (small : ∀ n < 10, P n) (large : ∀ n, 10 ≤ n → P (n / 10) → P n) (n : Nat) :
    P n := by
  induction n using Nat.strong_induction_on with
  | _ n ih =>
    rcases Nat.lt_or_ge n 10 with h | h
    · exact small n h
    · exact large n h (ih _ (by omega))

theorem foldl_digits10 (n : Nat) : (digits10 n).foldl (fun acc d => 10 * acc + d.val) 0 = n := by
  induction n using digits10_induction with
  | small n h => simp [digits10_of_lt h, Nat.mod_eq_of_lt h]
  | large n h ih => simp [digits10_of_ge h, ih, Nat.div_add_mod]

theorem digits10_ne_nil (n : Nat) : digits10 n ≠ [] := by
  rcases Nat.lt_or_ge n 10 with h | h
  · simp [digits10_of_lt h]
  · simp [digits10_of_ge h]

theorem head_digits10_ne_zero {n : Nat} (hn : n ≠ 0) : (digits10 n).head (digits10_ne_nil n) ≠ 0 := by
  induction n using digits10_induction with
  | small n h => simpa [digits10_of_lt h, Fin.ext_iff, Nat.mod_eq_of_lt h] using hn
  | large n h ih =>
    simp only [digits10_of_ge h, List.head_append_of_ne_nil (digits10_ne_nil _)]
    exact ih (by omega)

/-- A number below `10 ^ k` has at most `k` digits. -/
theorem length_digits10_le {k n : Nat} (hk : k ≠ 0) (h : n < 10 ^ k) : (digits10 n).length ≤ k := by
  induction n using digits10_induction generalizing k with
  | small n hn => simp [digits10_of_lt hn]; omega
  | large n hn ih =>
    obtain _ | _ | k := k
    · omega
    · omega
    · have := ih (k := k + 1) (by omega) (by rw [Nat.pow_succ] at h; omega)
      simpa [digits10_of_ge hn] using this

/-- Settles O9: each clause by the recursion of R145. -/
theorem decimalDigits : Obligations.DecimalDigits := by
  refine ⟨fun _ => digits10_of_lt, fun _ => digits10_of_ge, foldl_digits10, fun n d ds hn h => ?_, fun n => ⟨?_, ?_⟩⟩
  · simpa [h] using head_digits10_ne_zero (n := n) (by omega)
  · exact List.length_pos_iff.2 (digits10_ne_nil _)
  · exact length_digits10_le (by decide) (by omega)

/-! ### Number fields (R146, R150) -/

theorem fmtNumber_of_le {n w : Nat} (h : w ≤ (digits10 n).length) (pz : Bool) :
    fmtNumber n w pz = ((digits10 n).map romDigit).take w := by
  rw [fmtNumber, if_pos h, List.map_take]

theorem fmtNumber_of_lt {n w : Nat} (h : (digits10 n).length < w) (pz : Bool) :
    fmtNumber n w pz = List.replicate (w - (digits10 n).length) (padGlyph pz) ++ (digits10 n).map romDigit := by
  rw [fmtNumber, if_neg (by omega)]

theorem length_fmtNumber (n w : Nat) (pz : Bool) : (fmtNumber n w pz).length = w := by
  rcases Nat.lt_or_ge (digits10 n).length w with h | h
  · simp [fmtNumber_of_lt h, h.le]
  · simp [fmtNumber_of_le h, h]

/-- Settles O10: the two cases of FMT_NUMBER and the length of each. -/
theorem numberField : Obligations.NumberField :=
  fun n w pz => ⟨length_fmtNumber n w pz, (fmtNumber_of_le · pz), (fmtNumber_of_lt · pz)⟩

/-- A number of at most two digits fills a field of two with its tens and its units, the tens' zero as the pad glyph. -/
theorem fmtNumber_two_of_lt {n : Nat} (h : n < 100) :
    fmtNumber n 2 true = [romDigit (Fin.ofNat 10 (n / 10)), romDigit (Fin.ofNat 10 n)] := by
  rcases Nat.lt_or_ge n 10 with hn | hn
  · have htens : n / 10 = 0 := by omega
    rw [fmtNumber_of_lt (by simp [digits10_of_lt hn]), digits10_of_lt hn, htens]
    rfl
  · have hdigits : digits10 n = [Fin.ofNat 10 (n / 10), Fin.ofNat 10 n] := by
      rw [digits10_of_ge hn, digits10_of_lt (by omega : n / 10 < 10)]
      rfl
    rw [fmtNumber_of_le (by simp [hdigits]), hdigits]
    rfl

/-- Settles O11: both fields hold tens and units, and the separator is ORed into the second glyph. -/
theorem pairOfTwoDigitNumbers : Obligations.PairOfTwoDigitNumbers := by
  intro a b colon ha hb
  rw [fmtPair, fmtNumber_two_of_lt ha, fmtNumber_two_of_lt hb]
  cases colon with
  | false => simp [withColon, quadOfList]
  | true => rfl

/-! ### Text (R152, R154) -/

/-- The glyph at a position of the field is that of the text's character there, blank beyond the text: the length of R85 counts every
position up to 255. -/
theorem textGlyph_getD (text : List Byte) {i : Nat} (hi : i < 255) :
    textGlyph (BitVec.ofNat 8 (min text.length 255)) i (text.getD i 0#8) = (text.map romChar).getD i Config.segBlank := by
  have hlen : (BitVec.ofNat 8 (min text.length 255)).toNat = min text.length 255 := by rw [BitVec.toNat_ofNat]; omega
  rw [textGlyph, hlen]
  rcases Nat.lt_or_ge i text.length with h | h
  · rw [if_pos (by omega)]
    simp [h]
  · rw [if_neg (by omega)]
    simp [h]

/-- FMT_TEXT of a text as R85 assembles it: the glyphs of its characters, blank beyond it (R152). -/
theorem fmtText_textQuad (text : List Byte) :
    fmtText (BitVec.ofNat 8 (min text.length 255)) (textQuad text) = quadOfList (text.map romChar) := by
  simp (disch := decide) only [fmtText, textQuad, quadOfList, textGlyph_getD]

/-- A buffer takes no more than four bytes of a list. -/
theorem quadOfList_take (bs : List Byte) : quadOfList (bs.take 4) = quadOfList bs := by
  simp [quadOfList, List.getD_eq_getElem?_getD]

/-- SHOW of a text is RAW of its glyphs, in every state (R179, R182). -/
theorem exec_assemble_showText (s : State) (text : List Byte) :
    exec (assemble (.showText text)) s = exec (.raw (quadOfList (text.map romChar))) s := by
  rw [← fmtText_textQuad]
  rfl

/-- Settles O41: the glyphs beyond the fourth have no place in the buffer. -/
theorem showTruncatesText : Obligations.ShowTruncatesText := by
  intro s text
  rw [exec_assemble_showText, exec_assemble_showText, List.map_take, quadOfList_take]

end Sys2Proof.Machine
end

section
/-! PROOF. The places of the phases of the operations (R27, R156): every piece keeps its own numbers, and the plans' frames are
few and short. -/

namespace Sys2Proof.Machine

/-- The ranges of a phase's place (R27, R156 (f)). -/
def Phase.Placed (p : Phase) : Prop := p.frame ≤ 2 ∧ p.byte ≤ 4 ∧ 1 ≤ p.index ∧ p.index ≤ 29

section
variable {f k : Nat} (hf : f ≤ 2) (hk : k ≤ 4)
include hf

theorem placed_startPhases : ∀ p ∈ startPhases f, p.Placed := by
  simp [startPhases, plainPhase, Phase.Placed, hf]

include hk

theorem placed_bitCell {i : Nat} (hi : i < 8) (x : Bool) : ∀ p ∈ bitCell f k i x, p.Placed := by
  simp [bitCell, plainPhase, Phase.Placed, hf, hk]
  omega

theorem placed_ackCell : ∀ p ∈ ackCell f k, p.Placed := by
  simp [ackCell, plainPhase, Phase.Placed, hf, hk]

/-- Eight bit cells of three phases and the ACK cell of five make 29 (R107). -/
theorem placed_writePhases (v : Byte) : ∀ p ∈ writePhases f k v, p.Placed := by
  simp only [writePhases, List.forall_mem_append]
  refine ⟨?_, ?_, ?_, ?_, ?_, ?_, ?_, ?_, placed_ackCell hf hk⟩ <;> exact placed_bitCell hf hk (by decide) _

theorem placed_stopPhases : ∀ p ∈ stopPhases f k, p.Placed := by
  simp [stopPhases, plainPhase, Phase.Placed, hf, hk]

omit hk

/-- Bytes numbered from `k` whose last number is in range. -/
theorem placed_bytePhases (vs : List Byte) (h : k + vs.length ≤ 5) : ∀ p ∈ bytePhases f k vs, p.Placed := by
  induction vs generalizing k with
  | nil => exact List.forall_mem_nil _
  | cons v vs ih =>
    rw [List.length_cons] at h
    exact List.forall_mem_append.2 ⟨placed_writePhases hf (by omega) v, ih (by omega)⟩

/-- A frame of at most NDIGITS + 1 bytes, the longest of R77. -/
theorem placed_framePhases {vs : List Byte} (h : vs.length ≤ 5) : ∀ p ∈ framePhases f vs, p.Placed :=
  List.forall_mem_append.2 ⟨placed_startPhases hf,
    List.forall_mem_append.2 ⟨placed_bytePhases hf vs (by omega), placed_stopPhases hf (by omega)⟩⟩

end

theorem length_frameAddr (q : Quad) : (frameAddr q).length = 5 := rfl

/-- WRITE_DISPLAY's frames have the numbers 0 to 2, and the longest carries the address byte and four more (R178). -/
theorem placed_writeDisplayPhases (q : Quad) (ctl : BitVec 4) : ∀ p ∈ writeDisplayPhases q ctl, p.Placed :=
  List.forall_mem_append.2 ⟨placed_framePhases (by decide) (by decide),
    List.forall_mem_append.2 ⟨placed_framePhases (by decide) (by simp [length_frameAddr]),
      placed_framePhases (by decide) (by simp [frameCtrl])⟩⟩

theorem Planned.placed {s t : State} {i : Instr} {ps : List Phase} {fin : Finish} (h : Planned s i (.run t ps fin)) :
    ∀ p ∈ ps, p.Placed := by
  cases h with
  | construct | release => simp [constructPhases, releasePhases, plainPhase, Phase.Placed]
  | start => exact placed_startPhases (by decide)
  | stop => exact placed_stopPhases (by decide) (by decide)
  | writeByte v => exact placed_writePhases (by decide) (by decide) v
  | control i ctl => exact placed_framePhases (by decide) (by simp [frameCtrl])
  | display i q => exact placed_writeDisplayPhases q _

/-- Settles O60: the phases of each kind of plan. -/
theorem phasePlacesInRange : Obligations.PhasePlacesInRange :=
  fun _ _ _ _ _ h => (planned_of_planOf h).placed

end Sys2Proof.Machine
end

section
/-! PROOF. The session operations one by one (R172 to R182): the word of each, what it does where its `require` line holds, and its refusal
elsewhere. -/

namespace Sys2Proof.Machine

/-! ### Refusals -/

/-- An operation whose `require` line is false is refused (R204). -/
theorem exec_of_require_not {i : Instr} {s : State} {legal : Bool} {p : Plan} (hp : planOf i s = some (Plan.require legal s p))
    (h : ¬ legal = true) : exec i s = .next (s.answered .illegalState) := by
  rw [exec_of_planOf hp, perform_require_of_not h]

/-- A session operation other than CONSTRUCT is refused without a session and inside a frame (R170, R204). -/
theorem exec_of_not_ready {i : Instr} {s : State} {p : Plan} (hp : planOf i s = some (Plan.require s.ready s p))
    (h : ¬ (s.sess = .idle ∧ s.bus = .idle)) : exec i s = .next (s.answered .illegalState) :=
  exec_of_require_not hp (mt (ready_iff s).1 h)

/-- In RELEASED no `require` line holds, so every command is refused (R173). -/
theorem exec_of_released {i : Instr} {s : State} (hi : i.isWire = false) (hs : s.sess = .released) :
    ∃ c, (c = .illegalState ∨ c = .illegalOp) ∧ exec i s = .next (s.answered c) := by
  have hready : ¬ s.ready = true := by simp [ready_iff, hs]
  have hmid : ¬ s.midFrame = true := by simp [midFrame_iff, hs]
  cases i with
  | construct => exact ⟨_, .inl rfl, exec_of_require_not rfl (by simp [hs])⟩
  | release | brightness | on | off | showText | numbers | clear | raw | start =>
    exact ⟨_, .inl rfl, exec_of_require_not rfl hready⟩
  | stop | writeByte => exact ⟨_, .inl rfl, exec_of_require_not rfl hmid⟩
  | reservedOp0 | reservedOpD | reservedOpE | reservedOpF => exact ⟨_, .inr rfl, rfl⟩
  | dataCmdAuto | dataCmdFixed | addrCmd | ctrlCmd => cases hi

/-! ### CONSTRUCT and RELEASE (R172, R173) -/

/-- CONSTRUCT without the grant takes the draw and gives the response, nothing else (R172, R201). -/
theorem exec_construct_notGranted {s : State} (hs : s.sess = .uninit) (ha : s.env.acqOk = false) :
    exec .construct s = .next (s.tookAcq.answered .acquisitionFailure) := by
  have hp : planConstruct s = .reply s.tookAcq .acquisitionFailure := by simp [planConstruct, hs, ha]
  rw [exec_of_planOf (p := planConstruct s) rfl, hp]
  rfl

/-- Settles O33: the phases of CONSTRUCT from the lines of a boundary state, which no one drives, and its two ways to fail. -/
theorem constructOpensSession : Obligations.ConstructOpensSession := by
  refine ⟨fun w hop => by rw [decodeCommand, hop]; rfl, fun s h hs ha => ?_, fun s hs ha => exec_construct_notGranted hs ha,
    fun s hs => exec_of_require_not rfl (by simpa using hs)⟩
  obtain ⟨hc, hd, -, hscan⟩ := h.released (by simp [hs])
  rw [exec_construct_granted hs ha, Plan.perform, runPhases_construct s.tookAcq.begin hc hd hscan]
  rfl

/-- RELEASE's plan where it is legal (R173). -/
theorem planOf_release_of_ready {s : State} (hr : s.ready = true) : planOf .release s = some (.run s releasePhases .release) := by
  simp only [planOf, planRelease, hr, perform_require_true]

/-- Settles O34: the phases of RELEASE from the idle lines of a boundary state, and no `require` line holds elsewhere or after it. -/
theorem releaseEndsSession : Obligations.ReleaseEndsSession := by
  refine ⟨fun w hop => by rw [decodeCommand, hop]; rfl, fun s h hs hb => ?_, fun s h => exec_of_not_ready rfl h,
    fun s w hs => exec_of_released (isWire_decodeCommand w) hs⟩
  obtain ⟨hc, hd, hscan⟩ := h.idleHigh hs hb
  rw [exec_of_planOf (planOf_release_of_ready ((ready_iff s).2 ⟨hs, hb⟩)), Plan.perform,
    runPhases_release s.begin hc hd hscan, begin_rx, scanAt_self _ _ hscan]
  simp [State.wired, State.begin, State.finish, State.respond, State.answered]

/-! ### The control operations (R174 to R176) -/

/-- The control byte of BRIGHTNESS: the bit it keeps and the level it writes (R174). -/
theorem controlByte_brightness (ctl : BitVec 4) (n : Nat) :
    0x80#8 ||| ((ctl &&& 0x8#4) ||| BitVec.ofNat 4 (min n 7)).setWidth 8 =
      0x80#8 ||| (ctl &&& 0x8#4).setWidth 8 ||| BitVec.ofNat 8 (min n 7) := by
  have h : ∀ (ctl : BitVec 4) (m : Fin 8), 0x80#8 ||| ((ctl &&& 0x8#4) ||| BitVec.ofNat 4 m.val).setWidth 8 =
      0x80#8 ||| (ctl &&& 0x8#4).setWidth 8 ||| BitVec.ofNat 8 m.val := by decide
  exact h ctl ⟨min n 7, by omega⟩

/-- The control byte of ON: the bit it sets and the brightness it keeps (R175). -/
theorem controlByte_on (ctl : BitVec 4) :
    0x80#8 ||| (ctl ||| 0x8#4).setWidth 8 = 0x88#8 ||| (ctl &&& 0x7#4).setWidth 8 := by
  revert ctl; decide

/-- The policies differ above `BRIGHT_MAX` only (R174). -/
theorem brightOperand_reject_of_le {level : Byte} (h : level.toNat ≤ 7) :
    brightOperand .reject level = brightOperand .clamp level := by
  simp only [brightOperand, Config.brightMax, h, if_true]

theorem brightOperand_reject_of_lt {level : Byte} (h : 7 < level.toNat) : brightOperand .reject level = none := by
  simp only [brightOperand, Config.brightMax, Nat.not_le.2 h, if_false]

/-- Settles O35: under CLAMP it is a control operation; REJECT differs above 7 only, where its operand has no value. -/
theorem brightnessSends : Obligations.BrightnessSends := by
  refine ⟨fun w hop => by rw [decodeCommand, hop]; rfl, fun s level h hs hb => ?_, fun s level hs hb hlevel => ?_,
    fun s level hlevel => ?_, fun s level h => ⟨exec_of_not_ready rfl h, perform_require_of_not (mt (ready_iff s).1 h) s _⟩⟩
  · rw [exec_of_controlValue h hs hb (i := .brightness level) rfl, controlByte_brightness]
  · rw [planBrightness, (ready_iff s).2 ⟨hs, hb⟩, brightOperand_reject_of_lt hlevel]
    rfl
  · rw [planBrightness, brightOperand_reject_of_le hlevel]
    rfl

section
variable {s : State} (h : s.Boundary) (hs : s.sess = .idle) (hb : s.bus = .idle)
include h hs hb

theorem exec_on_of_idle :
    exec .on s = .next (({ s with ctl := s.ctl ||| 0x8#4 } : State).sentFrames [[0x88#8 ||| (s.ctl &&& 0x7#4).setWidth 8]]) := by
  rw [exec_of_controlValue h hs hb (i := .on) rfl, controlByte_on]

theorem exec_off_of_idle :
    exec .off s = .next (({ s with ctl := s.ctl &&& 0x7#4 } : State).sentFrames [[0x80#8 ||| (s.ctl &&& 0x7#4).setWidth 8]]) :=
  exec_of_controlValue h hs hb rfl

/-- An operation that writes `ctl` and sends frames ends in a boundary state (R31 does not speak of `ctl`). -/
theorem boundary_sentFrames_ctl (ctl : BitVec 4) (frs : List (List Byte)) :
    (({ s with ctl := ctl } : State).sentFrames frs).Boundary :=
  boundary_sentFrames (s := { s with ctl := ctl }) ⟨h.released, h.idleHigh, h.openFrame, h.sticky, h.fresh⟩ hs hb frs

end

/-- Settles O36: both are control operations. -/
theorem onAndOffSend : Obligations.OnAndOffSend :=
  ⟨fun w => ⟨fun hop => by rw [decodeCommand, hop]; rfl, fun hop => by rw [decodeCommand, hop]; rfl⟩,
    fun _ h hs hb => ⟨exec_on_of_idle h hs hb, exec_off_of_idle h hs hb⟩,
    fun _ h => ⟨exec_of_not_ready rfl h, exec_of_not_ready rfl h⟩⟩

/-- Settles O37: each operation leaves the lines idle for the next one, and the brightness it sends is the first one's. -/
theorem onOffOnSendsThreeFrames : Obligations.OnOffOnSendsThreeFrames := by
  intro s h hs hb
  have h₁ := boundary_sentFrames_ctl h hs hb (s.ctl ||| 0x8#4) [[0x88#8 ||| (s.ctl &&& 0x7#4).setWidth 8]]
  have h₂ := boundary_sentFrames_ctl h₁ hs hb ((s.ctl ||| 0x8#4) &&& 0x7#4) [[0x80#8 ||| ((s.ctl ||| 0x8#4) &&& 0x7#4).setWidth 8]]
  have hoff : ∀ ctl : BitVec 4, (ctl ||| 0x8#4) &&& 0x7#4 = ctl &&& 0x7#4 := by decide
  have hon : ∀ ctl : BitVec 4, (ctl &&& 0x7#4) ||| 0x8#4 = ctl ||| 0x8#4 := by decide
  refine ⟨_, (execAll_cons (exec_on_of_idle h hs hb)).trans <| (execAll_cons (exec_off_of_idle h₁ hs hb)).trans <|
    execAll_cons (exec_on_of_idle h₂ hs hb), ?_, ?_⟩
  · simp [State.sentFrames, hoff, hon]
  · simp [State.sentFrames, hoff, BitVec.and_assoc]

/-! ### The display operations (R179 to R182) -/

/-- Settles O38: SHOW is a display write of the text's glyphs. -/
theorem showSends : Obligations.ShowSends :=
  ⟨fun w hop => by rw [decodeCommand, hop]; rfl,
    fun _ len c h hs hb => ⟨fmtText len c, rfl, exec_of_displayBuffer h hs hb rfl⟩,
    fun _ _ _ h => exec_of_not_ready rfl h⟩

/-- The buffer of NUMBERS: the two fields of two glyphs, the separator ORed into the second glyph (R150). -/
theorem toList_fmtPair (pz : Bool) (a b : BitVec 16) (colon : Bool) :
    (fmtPair pz a b colon).toList = (fmtNumber a.toNat 2 pz ++ fmtNumber b.toNat 2 pz).modify 1
      (fun v => if colon then v ||| 0x80#8 else v) := by
  obtain ⟨x₀, x₁, hx⟩ := List.length_eq_two.1 (length_fmtNumber a.toNat 2 pz)
  obtain ⟨y₀, y₁, hy⟩ := List.length_eq_two.1 (length_fmtNumber b.toNat 2 pz)
  rw [fmtPair, hx, hy]
  cases colon <;> rfl

/-- Settles O39: NUMBERS is a display write of the pair. -/
theorem numbersSends : Obligations.NumbersSends :=
  ⟨fun w hop => by rw [decodeCommand, hop]; rfl,
    fun _ a b colon h hs hb => ⟨fmtPair true a b colon, toList_fmtPair true a b colon, exec_of_displayBuffer h hs hb rfl⟩,
    fun _ _ _ _ h => exec_of_not_ready rfl h⟩

/-- Settles O40: both are display writes; a text of length 0 is blank at every position, and so are four zero bytes. -/
theorem clearAndRawSend : Obligations.ClearAndRawSend :=
  ⟨fun w => ⟨fun hop => by rw [decodeCommand, hop]; rfl, fun hop => by rw [decodeCommand, hop]; rfl⟩,
    fun _ _ h hs hb => ⟨exec_of_displayBuffer h hs hb rfl, exec_of_displayBuffer h hs hb rfl⟩,
    fun _ _ => ⟨rfl, rfl⟩,
    fun _ _ h => ⟨exec_of_not_ready rfl h, exec_of_not_ready rfl h⟩⟩

end Sys2Proof.Machine
end

section
/-! PROOF. The session operations as sequences of transport operations (R177, R178), how many phases and samples they have (R171), and how
`sess` moves (R185). -/

namespace Sys2Proof.Machine

/-! ### Frames by hand -/

/-- Instructions in a row go on from where the first of them ended. -/
theorem execAll_append {is : List Instr} (js : List Instr) {s t : State} (h : execAll is s = .next t) :
    execAll (is ++ js) s = execAll js t := by
  induction is generalizing s with
  | nil => cases h; rfl
  | cons i is ih =>
    obtain ⟨u, hu⟩ := exec_answers i s
    rw [execAll_cons hu] at h
    rw [List.cons_append, execAll_cons hu, ih h]

/-- Frames by hand from idle lines, one after another, leave what one operation that sends the same frames leaves, but for the response and
the samples in hand: those are the last hand operation's. -/
theorem execAll_handFrames (frs : List (List Byte)) {s : State} (hs : s.sess = .idle) (hb : s.bus = .idle)
    (hscan : s.rx.scan = .idle) (hc : s.clkDrv = .h) (hd : s.dioDrv = .h) :
    ∃ xs c a v q, execAll (frs.flatMap handFrame) s =
      .next { s.sentFrames frs with samples := xs, rspStatus := c, rspAck := a, rspValid := v, seq := q } := by
  induction frs generalizing s with
  | nil =>
    refine ⟨s.samples, s.rspStatus, s.rspAck, s.rspValid, s.seq, ?_⟩
    simp [execAll, State.sentFrames, Env.levels, Env.afterDios, framesEvents]
  | cons f frs ih =>
    rw [List.flatMap_cons, execAll_append _ (execAll_handFrame f hs hb hscan hc hd)]
    obtain ⟨xs, c, a, v, q, hrest⟩ := ih (s := ((s.wired .h .h .idle (s.env.levels f.length) (s.env.afterDios f.length)
      (frameEvents f (s.env.levels f.length)) (s.rx.gets [f])).begin).respond .ok true) hs rfl hscan rfl rfl
    refine ⟨xs, c, a, v, q, hrest.trans ?_⟩
    simp [State.sentFrames, State.respond, State.begin, State.wired, Receiver.gets, framesEvents, levels_append, afterDios_append,
      ackAfter_append, allAcked_append, Bool.or_assoc, hb, hc, hd]

/-- What frames by hand leave, whatever the last operation's response is. -/
theorem sentFrames_eq_handFrames {s u : State} {frs : List (List Byte)} (h : s.Boundary) (hs : s.sess = .idle) (hb : s.bus = .idle)
    (hu : execAll (frs.flatMap handFrame) s = .next u) :
    ∃ xs c a v q, u = { s.sentFrames frs with samples := xs, rspStatus := c, rspAck := a, rspValid := v, seq := q } := by
  obtain ⟨hc, hd, hscan⟩ := h.idleHigh hs hb
  obtain ⟨xs, c, a, v, q, hall⟩ := execAll_handFrames frs hs hb hscan hc hd
  rw [hall] at hu
  exact ⟨xs, c, a, v, q, (Host.Outcome.next.inj hu).symm⟩

/-! ### Phases and samples of frames -/

/-- A frame of `n` bytes has START's phase, 29 a byte, and STOP's four (R105, R107, R110). -/
theorem length_pairsOf_frameEvents {vs : List Byte} {xs : List Level} (h : vs.length = xs.length) :
    (pairsOf (frameEvents vs xs)).length = 29 * vs.length + 5 := by
  rw [← countSteps_anyStep .h .h, countSteps_frameEvents pieceCounts_anyStep h]
  omega

theorem length_pairsOf_framesEvents (frs : List (List Byte)) (e : Env) :
    (pairsOf (framesEvents frs e)).length = (frs.map fun f => 29 * f.length + 5).sum := by
  induction frs generalizing e with
  | nil => rfl
  | cons f frs ih =>
    rw [framesEvents, pairsOf_append, List.length_append, ih, length_pairsOf_frameEvents (length_levels _ _).symm,
      List.map_cons, List.sum_cons]

theorem length_samplesOf_framesEvents (frs : List (List Byte)) (e : Env) :
    (samplesOf (framesEvents frs e)).length = frs.flatten.length := by
  rw [samplesOf_framesEvents, length_levels]

/-- Settles O42: the operation sends the frame that START, WRITEBYTE and STOP send by hand, of 29 + 5 phases. -/
theorem controlIsStartWriteStop : Obligations.ControlIsStartWriteStop := by
  intro s t u i ctl h hs hb hi ht hu
  obtain ⟨xs, c, a, v, q, rfl⟩ := sentFrames_eq_handFrames (frs := [[0x80#8 ||| ctl.setWidth 8]]) h hs hb hu
  cases (exec_of_controlValue h hs hb hi).symm.trans ht
  exact ⟨rfl, rfl, rfl, rfl, rfl, rfl, rfl, rfl, rfl, _, rfl, length_pairsOf_framesEvents _ _, length_samplesOf_framesEvents _ _⟩

/-- Settles O43: the operation sends the frames that are sent by hand. -/
theorem displayWriteIsThreeFrames : Obligations.DisplayWriteIsThreeFrames := by
  intro s t u i buf h hs hb hi ht hu
  obtain ⟨xs, c, a, v, q, rfl⟩ := sentFrames_eq_handFrames (frs := displayFrames buf s.ctl) h hs hb hu
  cases (exec_of_displayBuffer h hs hb hi).symm.trans ht
  exact ⟨rfl, rfl, rfl, rfl, rfl, rfl, rfl, rfl, rfl, rfl⟩

/-! ### The trace of an operation (R171) -/

theorem runPhases_trace (s : State) (ps : List Phase) : ∃ seg, (s.runPhases ps).trace = s.trace ++ seg := by
  induction ps generalizing s with
  | nil => exact ⟨[], (List.append_nil _).symm⟩
  | cons p ps ih =>
    obtain ⟨seg, hseg⟩ := ih (s.runPhase p)
    rw [runPhases_cons, hseg, runPhase_trace, List.append_assoc]
    exact ⟨_, rfl⟩

theorem perform_run_trace (s : State) (ps : List Phase) (f : Finish) :
    ∃ seg, (Plan.run s ps f).perform.trace = s.trace ++ seg := by
  rw [Plan.perform, finish_trace]
  exact runPhases_trace s.begin ps

/-- An instruction adds to the trace and takes nothing from it (R60). -/
theorem exec_trace {s t : State} {i : Instr} (h : exec i s = .next t) : ∃ seg, t.trace = s.trace ++ seg := by
  have hsame : ∃ seg, s.trace = s.trace ++ seg := ⟨[], (List.append_nil _).symm⟩
  obtain ⟨p, hp, he⟩ | ⟨-, rx, he⟩ := exec_cases i s
  · cases he.symm.trans h
    cases planned_of_planOf hp with
    | refused | notGranted => exact hsame
    | construct | release | start | stop | writeByte | control | display => exact perform_run_trace _ _ _
  · cases he.symm.trans h
    exact hsame

/-- The phases, samples and hold ticks of an operation that sends frames depend on the lengths of the frames alone (R101, R171). -/
theorem counts_of_sentFrames {s : State} {frs : List (List Byte)} {seg : List Event}
    (h : (s.sentFrames frs).trace = s.trace ++ seg) :
    (pairsOf seg).length = (frs.map fun f => 29 * f.length + 5).sum ∧ (samplesOf seg).length = frs.flatten.length ∧
      holdTicks seg = (frs.map fun f => 29 * f.length + 5).sum * Config.tDelay := by
  cases List.append_cancel_left h
  have hlen := length_pairsOf_framesEvents frs s.env
  exact ⟨hlen, length_samplesOf_framesEvents frs s.env, congrArg (· * Config.tDelay) hlen⟩

/-- Settles O44: what an operation emits is fixed by the frames it sends or the line phases it has. -/
theorem fixedLength : Obligations.FixedLength := by
  refine ⟨fun s t i h hs hb ht => ?_, fun s t h hs ht => ?_⟩
  · obtain ⟨hc, hd, hscan⟩ := h.idleHigh hs hb
    obtain ⟨seg, hseg⟩ := exec_trace ht
    refine ⟨seg, hseg, fun hi => ?_, fun hi => ?_, fun hi => ?_⟩
    · obtain ⟨ctl, hi⟩ := Option.isSome_iff_exists.1 hi
      cases (exec_of_controlValue h hs hb hi).symm.trans ht
      obtain ⟨hpairs, hsamples, hticks⟩ := counts_of_sentFrames (s := { s with ctl := ctl }) hseg
      exact ⟨hpairs, hsamples, hticks, hb, hc, hd⟩
    · obtain ⟨q, hi⟩ := Option.isSome_iff_exists.1 hi
      cases (exec_of_displayBuffer h hs hb hi).symm.trans ht
      obtain ⟨hpairs, hsamples, hticks⟩ := counts_of_sentFrames (s := { s with buf := q }) hseg
      exact ⟨hpairs, hsamples, hticks, hb, hc, hd⟩
    · subst hi
      rw [exec_of_planOf (planOf_release_of_ready ((ready_iff s).2 ⟨hs, hb⟩)), Plan.perform,
        runPhases_release s.begin hc hd hscan] at ht
      cases ht
      cases List.append_cancel_left hseg
      exact ⟨rfl, rfl, hb, rfl, rfl⟩
  · obtain ⟨hc, hd, -, hscan⟩ := h.released (by simp [hs])
    cases ha : s.env.acqOk with
    | true =>
      rw [exec_construct_granted hs ha, Plan.perform, runPhases_construct s.tookAcq.begin hc hd hscan] at ht
      cases ht
      exact ⟨_, rfl, fun _ => ⟨rfl, rfl, rfl, rfl, rfl⟩, fun hne => absurd rfl hne⟩
    | false =>
      have hfail : Status.acquisitionFailure ≠ .ok := by decide
      rw [exec_construct_notGranted hs ha] at ht
      cases ht
      exact ⟨[], (List.append_nil _).symm, fun hok => absurd hok hfail, fun _ => ⟨rfl, hc, hd⟩⟩

/-! ### How `sess` moves (R185) -/

/-- Only CONSTRUCT and RELEASE end with a write to `sess`. -/
theorem perform_run_sess (s : State) (ps : List Phase) {f : Finish} (hc : f ≠ .construct) (hr : f ≠ .release) :
    (Plan.run s ps f).perform.sess = s.sess := by
  have hfin : ((s.begin.runPhases ps).finish f).sess = (s.begin.runPhases ps).sess := by
    cases f with
    | construct => exact absurd rfl hc
    | release => exact absurd rfl hr
    | ok | acks => rfl
  exact hfin.trans (runPhases_sameOutside s.begin ps).sess

/-- Settles O46: of the plans an instruction can have, CONSTRUCT's and RELEASE's alone end with a write to `sess`, from where they are
legal. -/
theorem sessionTransitions : Obligations.SessionTransitions := by
  intro s t i h
  obtain ⟨p, hp, he⟩ | ⟨-, rx, he⟩ := exec_cases i s
  · cases he.symm.trans h
    cases planned_of_planOf hp with
    | refused | notGranted => exact .inl rfl
    | construct hs => exact .inr (.inl ⟨hs, rfl, rfl, rfl⟩)
    | release hr => exact .inr (.inr ⟨((ready_iff s).1 hr).1, rfl, rfl, rfl⟩)
    | start | stop | writeByte | control | display => exact .inl (perform_run_sess _ _ (by simp) (by simp))
  · cases he.symm.trans h
    exact .inl rfl

end Sys2Proof.Machine
end

section
/-! PROOF. Conditions (R200 to R208): refusals change the response and nothing else, and an operation that ends with another condition than a
missing ACK has begun nothing. -/

namespace Sys2Proof.Machine

/-- Settles O30: the reserved `op` values have no other plan than their refusal, and every other operation stands under its `require`
line. -/
theorem refusals : Obligations.Refusals := by
  refine ⟨fun _ => ⟨rfl, rfl, rfl, rfl⟩, fun _ hs => exec_of_require_not rfl (by simpa using hs), fun s h => ?_,
    fun _ v h => ⟨exec_writeByte_of_not_midFrame v h, exec_stop_of_not_midFrame h⟩⟩
  have hrefused {i : Instr} {p : Plan} (hp : planOf i s = some (Plan.require s.ready s p)) :
      exec i s = .next (s.answered .illegalState) := exec_of_not_ready hp h
  exact ⟨hrefused rfl, fun _ => hrefused rfl, fun _ _ => perform_require_of_not (mt (ready_iff s).1 h) s _, hrefused rfl, hrefused rfl,
    fun _ _ => hrefused rfl, fun _ _ _ => hrefused rfl, hrefused rfl, fun _ => hrefused rfl, exec_start_of_not_ready h⟩

/-- A plan that raises a condition has written nothing before it: the state is the old one, with the draw of `acq_ok` taken for
ACQUISITION_FAILURE and for no other condition (R172, R208). -/
inductive Plan.Precise (s : State) : Plan → Prop
  | refused (c : Status) (hc : c ≠ .acquisitionFailure) : Plan.Precise s (.reply s c)
  | notGranted : Plan.Precise s (.reply s.tookAcq .acquisitionFailure)
  | run (t : State) (ps : List Phase) (fin : Finish) : Plan.Precise s (.run t ps fin)

/-- A `require` line that is false raises ILLEGAL_STATE in the old state. -/
theorem Plan.Precise.require {s : State} {p : Plan} (legal : Bool) (h : p.Precise s) : (Plan.require legal s p).Precise s := by
  cases legal with
  | false => exact .refused _ (by decide)
  | true => exact h

theorem precise_planConstruct (s : State) : (planConstruct s).Precise s := by
  refine .require _ ?_
  split
  · exact .run _ _ _
  · exact .notGranted

/-- Every operation is precise: besides its `require` line, only CONSTRUCT and the reserved `op` values raise a condition before the
first phase, since BRIGHTNESS clamps its level (R174). -/
theorem precise_of_planOf {i : Instr} {s : State} {p : Plan} (h : planOf i s = some p) : p.Precise s := by
  cases i with
  | dataCmdAuto | dataCmdFixed | addrCmd | ctrlCmd => cases h
  | reservedOp0 | reservedOpD | reservedOpE | reservedOpF => cases h; exact .refused _ (by decide)
  | construct => cases h; exact precise_planConstruct s
  | release | brightness | on | off | showText | numbers | clear | raw | start | stop | writeByte =>
    cases h
    exact .require _ (.run _ _ _)

/-- An operation that has run its phases ends with OK or ACK_MISSING (R183, R202). -/
theorem finish_rspStatus (s : State) (f : Finish) : (s.finish f).rspStatus = .ok ∨ (s.finish f).rspStatus = .ackMissing := by
  cases f with
  | construct | release | ok => exact .inl rfl
  | acks =>
    rw [State.finish, respond_rspStatus]
    cases allAcked s.samples with
    | true => exact .inl rfl
    | false => exact .inr rfl

/-- Settles O47: an operation whose phases have run ends with one of the two codes excluded, and a plan that raises a condition is
precise. -/
theorem conditionsArePrecise : Obligations.ConditionsArePrecise := by
  intro s t i hi ht hok hmiss
  obtain ⟨p, hp, he⟩ := exec_of_command s hi
  cases he.symm.trans ht
  cases precise_of_planOf hp with
  | refused c hc =>
    rw [Plan.perform, raise_rspStatus, if_neg hc]
    rfl
  | notGranted => rfl
  | run u ps fin =>
    obtain hend | hend := finish_rspStatus (u.begin.runPhases ps) fin
    · exact absurd hend hok
    · exact absurd hend hmiss

end Sys2Proof.Machine
end

section
/-! PROOF. Hardware reset (R230, R231): what a reset edge leaves, from every state, and what of it is the receiver's in the middle of an
operation. -/

namespace Sys2Proof.Machine

/-- Settles O19: the step is a reset edge, at REST and during an operation alike. -/
theorem stepResets : Obligations.StepResets :=
  fun _ _ hi hh => step_reset hi hh

/-- An operation cut short leaves the receiver as at power-up (R231). -/
theorem hwReset_rx_of_busy {s : State} {p : Phase} {ps : List Phase} {fin : Finish} (hq : s.seq = .busy p ps fin) :
    s.hwReset.rx = Receiver.powerUp :=
  if_neg fun ⟨hrest, _⟩ => by cases hq.symm.trans hrest

/-- Settles O20: the engine's registers are reset's, and the receiver is that of power-up, of which nothing is known. -/
theorem resetAbandonsOperation : Obligations.ResetAbandonsOperation := by
  intro s p ps fin evs hi hq hh
  have hrx : (s.hostThen evs).hwReset.rx = Receiver.powerUp := hwReset_rx_of_busy hq
  refine ⟨_, step_reset hi hh, rfl, rfl, rfl, rfl, rfl, rfl, ?_⟩
  rw [hrx]
  exact ⟨rfl, fun _ => rfl, rfl, rfl⟩

end Sys2Proof.Machine
end
